-- ==== Sys2Proof/Word.lean ====
section
/-! DEFINITION. The widths of the GF256-RS core: symbols, command and response words, immediates, and
sequences of symbols (spec/00_scope.md R10 to R13). -/

namespace Sys2Proof

/-- A command or response word, bits 31 (most significant) down to 0 (R11, R70, R76). -/
abbrev Word := BitVec 32

/-- A symbol: an element of GF(2^8), bit i the coefficient of x^i (R10). -/
abbrev Symbol := BitVec 8

/-- A 16-bit immediate field, and the 16-bit data field of a response (R72, R76). Never sign-extended (R77). -/
abbrev Imm := BitVec 16

/-- A sequence of symbols: a polynomial with index 0 the highest-degree coefficient (R13), or a vector (R14). -/
abbrev Poly := List Symbol

/-- `zeros n` is n zero symbols (R12). -/
abbrev zeros (n : Nat) : Poly := List.replicate n 0#8

end Sys2Proof
end

