-- ==== Sys2Proof/Syntax.lean ====
section
/-! DEFINITION. The 31 commands of GF256RS-C1, one constructor per row of spec/opcode_table.json
(spec/30_encoding.md R80, R81). Operands stand in the order of the fields d, a, b, c, immediate last. -/

namespace Sys2Proof

/-- A symbol register number, s0 to s15 (R24). -/
abbrev SReg := Fin 16

/-- A polynomial register number, p0 to p7 (R26). -/
abbrev PReg := Fin 8

/-- A decoded command. `d` is a destination, `a`, `b`, `c` are sources, but that in `pDiv` the register `c`
receives the remainder (R74, R81). -/
inductive Instr where
  | nop
  | csrRd (num : Imm)
  | clrErr
  | sLi (d : SReg) (imm : Imm)
  | sGet (a : SReg)
  | gfAdd (d a b : SReg)
  | gfSub (d a b : SReg)
  | gfMul (d a b : SReg)
  | gfDiv (d a b : SReg)
  | gfPow (d a : SReg) (e : Imm)
  | gfInv (d a : SReg)
  | pClr (d : PReg)
  | pPush (d : PReg) (imm : Imm)
  | pGet (a : PReg) (idx : Imm)
  | pLen (a : PReg)
  | pPadz (d : PReg) (len : Imm)
  | pAdd (d a b : PReg)
  | pSub (d a b : PReg)
  | pMul (d a b : PReg)
  | pDiv (d a b c : PReg)
  | pMod (d a b : PReg)
  | pEval (d : SReg) (a : PReg) (b : SReg)
  | rsCfg (k : Imm)
  | rsGen (d : PReg)
  | rsEnc (d a : PReg)
  | rsSyn (d a : PReg)
  | rsBm (d a : PReg)
  | rsChien (d a : PReg)
  | rsForney (d a b c : PReg)
  | rsFix (d a b c : PReg)
  | rsDec (d a : PReg)
deriving DecidableEq, Repr

end Sys2Proof
end

