-- ==== Sys2Proof/WellFormed.lean ====
section
/-! DEFINITION. The two conditions of a legal command that the operand types do not already say
(spec/30_encoding.md R79, R87; spec/45_system.md R252). -/

namespace Sys2Proof

/-- `wellFormed i`: CSR.RD names a CSR 0 to 4, and P.DIV sends quotient and remainder to different registers.
Every other constructor's operands are legal by their types. -/
def wellFormed : Instr → Bool
  | .csrRd num => decide (num ≤ 4#16)
  | .pDiv d _ _ c => decide (d ≠ c)
  | .nop | .clrErr | .sLi _ _ | .sGet _
  | .gfAdd _ _ _ | .gfSub _ _ _ | .gfMul _ _ _ | .gfDiv _ _ _ | .gfPow _ _ _ | .gfInv _ _
  | .pClr _ | .pPush _ _ | .pGet _ _ | .pLen _ | .pPadz _ _
  | .pAdd _ _ _ | .pSub _ _ _ | .pMul _ _ _ | .pMod _ _ _ | .pEval _ _ _
  | .rsCfg _ | .rsGen _ | .rsEnc _ _ | .rsSyn _ _ | .rsBm _ _ | .rsChien _ _
  | .rsForney _ _ _ _ | .rsFix _ _ _ _ | .rsDec _ _ => true

end Sys2Proof
end

