-- ==== Sys2Proof/Decode.lean ====
section
/-! DEFINITION. Decoding of command words (spec/30_encoding.md R70 to R87), total on all 2^32 words and refusing
by name; after it the encoder, written from the same tables R72, R80, R81; and the match and mask of each row of the
opcode map. -/

namespace Sys2Proof

/-- Why a word is no command. Every reason is answered with the one cause E_ILLEGAL (R79, R266). -/
inductive DecodeError where
  /-- The opcode is not in the map (R82). -/
  | reservedOpcode
  /-- A must-be-zero bit or field is not zero (R83). -/
  | nonZeroField
  /-- A polynomial register specifier is 8 to 15 (R86). -/
  | badPolyReg
  /-- P.DIV with d = c (R87). -/
  | sameDestinations
  /-- CSR.RD of a CSR number above 4 (R34, R79). -/
  | badCsr
deriving DecidableEq, Repr

/-! ## The fields of a word (R71, R72) -/

def opField (w : Word) : BitVec 8 := w.extractLsb' 24 8
def dField (w : Word) : BitVec 4 := w.extractLsb' 20 4
def aField (w : Word) : BitVec 4 := w.extractLsb' 16 4
def bField (w : Word) : BitVec 4 := w.extractLsb' 12 4
def cField (w : Word) : BitVec 4 := w.extractLsb' 8 4
def lowField (w : Word) : BitVec 8 := w.extractLsb' 0 8
def immField (w : Word) : Imm := w.extractLsb' 0 16
def zField (w : Word) : BitVec 24 := w.extractLsb' 0 24

/-! ## Checks of one field (R79) -/

/-- A must-be-zero field (R83). -/
def mustBeZero {n : Nat} (x : BitVec n) : Except DecodeError Unit :=
  if x = 0#n then .ok () else .error .nonZeroField

/-- A field marked S: any value names a symbol register (R78). -/
def symReg (x : BitVec 4) : SReg := x.toFin

/-- A field marked P: only 0 to 7 name a register (R78, R86). -/
def polyReg (x : BitVec 4) : Except DecodeError PReg :=
  if h : x.toNat < 8 then .ok ⟨x.toNat, h⟩ else .error .badPolyReg

/-! ## Operand shapes of rule R81, one per set of used fields. Each checks its must-be-zero fields first. -/

/-- d, a, b symbol registers (GF.ADD, GF.SUB, GF.MUL, GF.DIV). -/
def operandsSSS (f : SReg → SReg → SReg → Instr) (w : Word) : Except DecodeError Instr := do
  mustBeZero (lowField w)
  mustBeZero (cField w)
  return f (symReg (dField w)) (symReg (aField w)) (symReg (bField w))

/-- d a polynomial register, all else zero (P.CLR, RS.GEN). -/
def operandsP (f : PReg → Instr) (w : Word) : Except DecodeError Instr := do
  mustBeZero (lowField w)
  mustBeZero (aField w)
  mustBeZero (bField w)
  mustBeZero (cField w)
  return f (← polyReg (dField w))

/-- d a polynomial register and the immediate (P.PUSH, P.PADZ). -/
def operandsPImm (f : PReg → Imm → Instr) (w : Word) : Except DecodeError Instr := do
  mustBeZero (aField w)
  return f (← polyReg (dField w)) (immField w)

/-- d, a polynomial registers (RS.ENC, RS.SYN, RS.BM, RS.CHIEN, RS.DEC). -/
def operandsPP (f : PReg → PReg → Instr) (w : Word) : Except DecodeError Instr := do
  mustBeZero (lowField w)
  mustBeZero (bField w)
  mustBeZero (cField w)
  return f (← polyReg (dField w)) (← polyReg (aField w))

/-- d, a, b polynomial registers (P.ADD, P.SUB, P.MUL, P.MOD). -/
def operandsPPP (f : PReg → PReg → PReg → Instr) (w : Word) : Except DecodeError Instr := do
  mustBeZero (lowField w)
  mustBeZero (cField w)
  return f (← polyReg (dField w)) (← polyReg (aField w)) (← polyReg (bField w))

/-- d, a, b, c polynomial registers (P.DIV, RS.FORNEY, RS.FIX). -/
def operandsPPPP (f : PReg → PReg → PReg → PReg → Instr) (w : Word) : Except DecodeError Instr := do
  mustBeZero (lowField w)
  return f (← polyReg (dField w)) (← polyReg (aField w)) (← polyReg (bField w)) (← polyReg (cField w))

/-! ## The decoder -/

/-- The operand fields of a word whose opcode is `op`, by the opcode map (R80, R81). -/
def decodeOp (op : BitVec 8) (w : Word) : Except DecodeError Instr :=
  match op with
  | 0x00#8 => do mustBeZero (zField w); return .nop
  | 0x01#8 => do mustBeZero (dField w); mustBeZero (aField w); return .csrRd (immField w)
  | 0x02#8 => do mustBeZero (zField w); return .clrErr
  | 0x10#8 => do mustBeZero (aField w); return .sLi (symReg (dField w)) (immField w)
  | 0x11#8 => do
    mustBeZero (lowField w)
    mustBeZero (dField w)
    mustBeZero (bField w)
    mustBeZero (cField w)
    return .sGet (symReg (aField w))
  | 0x20#8 => operandsSSS .gfAdd w
  | 0x21#8 => operandsSSS .gfSub w
  | 0x22#8 => operandsSSS .gfMul w
  | 0x23#8 => operandsSSS .gfDiv w
  | 0x24#8 => .ok (.gfPow (symReg (dField w)) (symReg (aField w)) (immField w))
  | 0x25#8 => do
    mustBeZero (lowField w)
    mustBeZero (bField w)
    mustBeZero (cField w)
    return .gfInv (symReg (dField w)) (symReg (aField w))
  | 0x30#8 => operandsP .pClr w
  | 0x31#8 => operandsPImm .pPush w
  | 0x32#8 => do mustBeZero (dField w); return .pGet (← polyReg (aField w)) (immField w)
  | 0x33#8 => do
    mustBeZero (lowField w)
    mustBeZero (dField w)
    mustBeZero (bField w)
    mustBeZero (cField w)
    return .pLen (← polyReg (aField w))
  | 0x34#8 => operandsPImm .pPadz w
  | 0x40#8 => operandsPPP .pAdd w
  | 0x41#8 => operandsPPP .pSub w
  | 0x42#8 => operandsPPP .pMul w
  | 0x43#8 => operandsPPPP .pDiv w
  | 0x44#8 => operandsPPP .pMod w
  | 0x45#8 => do
    mustBeZero (lowField w)
    mustBeZero (cField w)
    return .pEval (symReg (dField w)) (← polyReg (aField w)) (symReg (bField w))
  | 0x50#8 => do mustBeZero (dField w); mustBeZero (aField w); return .rsCfg (immField w)
  | 0x51#8 => operandsP .rsGen w
  | 0x52#8 => operandsPP .rsEnc w
  | 0x60#8 => operandsPP .rsSyn w
  | 0x61#8 => operandsPP .rsBm w
  | 0x62#8 => operandsPP .rsChien w
  | 0x63#8 => operandsPPPP .rsForney w
  | 0x64#8 => operandsPPPP .rsFix w
  | 0x65#8 => operandsPP .rsDec w
  | _ => .error .reservedOpcode

/-- The two checks of R79 that come after the fields: P.DIV with d = c (R87) and the CSR number (R34). -/
def checkOperands (i : Instr) : Except DecodeError Instr :=
  if wellFormed i then .ok i
  else match i with
    | .csrRd _ => .error .badCsr
    | _ => .error .sameDestinations

/-- The decoding algorithm of R79: a command with definite operands, or the reason why there is none. -/
def decode (w : Word) : Except DecodeError Instr := do
  checkOperands (← decodeOp (opField w) w)

/-- The word of an opcode-table row whose bits are `w`, bit 0 the least significant. Every command is one 32-bit
word (R70), presented whole at the port, so there are no bytes to lay out (R54). -/
def tableWord (nbits w : Nat) : Word := BitVec.ofNat 32 (w % 2 ^ nbits)

/-- The command that the decoder reads from an opcode-table row's bits. -/
def decodeTableWord (nbits w : Nat) : Option Instr := (decode (tableWord nbits w)).toOption

/-! ## The encoder -/

/-- Format Z (R72, R73). -/
def wordZ (op : BitVec 8) : Word := op ++ 0#24

/-- Format R (R72, R74). -/
def wordR (op : BitVec 8) (d a b c : BitVec 4) : Word := op ++ d ++ a ++ b ++ c ++ 0#8

/-- Format I (R72, R75). -/
def wordI (op : BitVec 8) (d a : BitVec 4) (imm : Imm) : Word := op ++ d ++ a ++ imm

/-- A symbol register's specifier. -/
def specS (r : SReg) : BitVec 4 := BitVec.ofFin r

/-- A polynomial register's specifier. -/
def specP (r : PReg) : BitVec 4 := BitVec.ofNat 4 r.val

/-- The word of a command (R72, R80, R81). -/
def encode : Instr → Word
  | .nop => wordZ 0x00
  | .csrRd num => wordI 0x01 0 0 num
  | .clrErr => wordZ 0x02
  | .sLi d imm => wordI 0x10 (specS d) 0 imm
  | .sGet a => wordR 0x11 0 (specS a) 0 0
  | .gfAdd d a b => wordR 0x20 (specS d) (specS a) (specS b) 0
  | .gfSub d a b => wordR 0x21 (specS d) (specS a) (specS b) 0
  | .gfMul d a b => wordR 0x22 (specS d) (specS a) (specS b) 0
  | .gfDiv d a b => wordR 0x23 (specS d) (specS a) (specS b) 0
  | .gfPow d a e => wordI 0x24 (specS d) (specS a) e
  | .gfInv d a => wordR 0x25 (specS d) (specS a) 0 0
  | .pClr d => wordR 0x30 (specP d) 0 0 0
  | .pPush d imm => wordI 0x31 (specP d) 0 imm
  | .pGet a idx => wordI 0x32 0 (specP a) idx
  | .pLen a => wordR 0x33 0 (specP a) 0 0
  | .pPadz d len => wordI 0x34 (specP d) 0 len
  | .pAdd d a b => wordR 0x40 (specP d) (specP a) (specP b) 0
  | .pSub d a b => wordR 0x41 (specP d) (specP a) (specP b) 0
  | .pMul d a b => wordR 0x42 (specP d) (specP a) (specP b) 0
  | .pDiv d a b c => wordR 0x43 (specP d) (specP a) (specP b) (specP c)
  | .pMod d a b => wordR 0x44 (specP d) (specP a) (specP b) 0
  | .pEval d a b => wordR 0x45 (specS d) (specP a) (specS b) 0
  | .rsCfg k => wordI 0x50 0 0 k
  | .rsGen d => wordR 0x51 (specP d) 0 0 0
  | .rsEnc d a => wordR 0x52 (specP d) (specP a) 0 0
  | .rsSyn d a => wordR 0x60 (specP d) (specP a) 0 0
  | .rsBm d a => wordR 0x61 (specP d) (specP a) 0 0
  | .rsChien d a => wordR 0x62 (specP d) (specP a) 0 0
  | .rsForney d a b c => wordR 0x63 (specP d) (specP a) (specP b) (specP c)
  | .rsFix d a b c => wordR 0x64 (specP d) (specP a) (specP b) (specP c)
  | .rsDec d a => wordR 0x65 (specP d) (specP a) 0 0

/-! ## The opcode map as match and mask (R80, R81) -/

/-- The fixed bits of each row of the opcode map, as the pair (match, mask) of spec/opcode_table.json, in its order. -/
def opcodeRows : List (Word × Word) :=
  [(0x00000000#32, 0xFFFFFFFF#32), (0x01000000#32, 0xFFFF0000#32), (0x02000000#32, 0xFFFFFFFF#32),
   (0x10000000#32, 0xFF0F0000#32), (0x11000000#32, 0xFFF0FFFF#32),
   (0x20000000#32, 0xFF000FFF#32), (0x21000000#32, 0xFF000FFF#32), (0x22000000#32, 0xFF000FFF#32),
   (0x23000000#32, 0xFF000FFF#32), (0x24000000#32, 0xFF000000#32), (0x25000000#32, 0xFF00FFFF#32),
   (0x30000000#32, 0xFF8FFFFF#32), (0x31000000#32, 0xFF8F0000#32), (0x32000000#32, 0xFFF80000#32),
   (0x33000000#32, 0xFFF8FFFF#32), (0x34000000#32, 0xFF8F0000#32)] ++
  [(0x40000000#32, 0xFF888FFF#32), (0x41000000#32, 0xFF888FFF#32), (0x42000000#32, 0xFF888FFF#32),
   (0x43000000#32, 0xFF8888FF#32), (0x44000000#32, 0xFF888FFF#32), (0x45000000#32, 0xFF080FFF#32),
   (0x50000000#32, 0xFFFF0000#32), (0x51000000#32, 0xFF8FFFFF#32), (0x52000000#32, 0xFF88FFFF#32),
   (0x60000000#32, 0xFF88FFFF#32), (0x61000000#32, 0xFF88FFFF#32), (0x62000000#32, 0xFF88FFFF#32),
   (0x63000000#32, 0xFF8888FF#32), (0x64000000#32, 0xFF8888FF#32), (0x65000000#32, 0xFF88FFFF#32)]

/-- Which row of `opcodeRows` a command belongs to. -/
def rowIndex : Instr → Nat
  | .nop => 0 | .csrRd _ => 1 | .clrErr => 2 | .sLi _ _ => 3 | .sGet _ => 4
  | .gfAdd _ _ _ => 5 | .gfSub _ _ _ => 6 | .gfMul _ _ _ => 7 | .gfDiv _ _ _ => 8 | .gfPow _ _ _ => 9 | .gfInv _ _ => 10
  | .pClr _ => 11 | .pPush _ _ => 12 | .pGet _ _ => 13 | .pLen _ => 14 | .pPadz _ _ => 15
  | .pAdd _ _ _ => 16 | .pSub _ _ _ => 17 | .pMul _ _ _ => 18 | .pDiv _ _ _ _ => 19 | .pMod _ _ _ => 20 | .pEval _ _ _ => 21
  | .rsCfg _ => 22 | .rsGen _ => 23 | .rsEnc _ _ => 24 | .rsSyn _ _ => 25 | .rsBm _ _ => 26 | .rsChien _ _ => 27
  | .rsForney _ _ _ _ => 28 | .rsFix _ _ _ _ => 29 | .rsDec _ _ => 30

/-- The fixed bits of the row of a command. -/
def opcodeRow (i : Instr) : Word × Word := opcodeRows.getD (rowIndex i) (0#32, 0#32)

end Sys2Proof
end

