-- ==== Sys2Proof/Config.lean ====
section
/-! DEFINITION. The parameters of the block (spec/00_scope.md R8). All are fixed by the spec; there is no free
value in this model, because the spec leaves no value open (spec/93_implementation_defined.md part 2). The widths
NSREG = 16, NPREG = 8 and EW = 16 stand in the types of Syntax.lean. CMD_BYTE_ORDER is no constant here: the
engine never sees it (R54; assumption log 4). -/

namespace Sys2Proof.Config

/-- POLY, the reduction polynomial x^8+x^4+x^3+x+1 (R8, R9). -/
@[simp] abbrev poly : Nat := 0x11B

/-- ALPHA, the generator element of the tables (R8, D1). -/
@[simp] abbrev alpha : Symbol := 0x03#8

/-- N, the codeword length in symbols (R8). -/
@[simp] abbrev n : Nat := 255

/-- PCAP, the capacity of a polynomial register in symbols (R8, R26). -/
@[simp] abbrev pcap : Nat := 512

end Sys2Proof.Config
end

