-- ==== Sys2Proof/Machine/GaloisField.lean ====
section
/-! DEFINITION. The Field Engine's tables and functions (spec/10_state.md R21 to R23, spec/40_field.md R100 to R109).
The tables are constants (R23), printed as the spec prints them, 16 entries a row, the entry of the lowest index in the
highest byte; that they satisfy the recurrence of R21 and the definition of R22 is the obligation FieldTables. -/

namespace Sys2Proof.Machine

/-! ## The tables -/

/-- The table of R21: row r holds ALOG[16r] to ALOG[16r+15]; the last byte of the last row is no entry. -/
def alogRows : List Nat :=
  [ 0x0103050F113355FF1A2E7296A1F81335,
    0x5FE13848D87395A4F702060A1E2266AA,
    0xE5345CE43759EB266ABED97090ABE631,
    0x53F5040C143C44CC4FD168B8D36EB2CD,
    0x4CD467A9E03B4DD762A6F10818287888,
    0x839EB9D06BBDDC7F8198B3CE49DB769A,
    0xB5C457F9103050F00B1D2769BBD661A3,
    0xFE192B7D8792ADEC2F7193AEE92060A0,
    0xFB163A4ED26DB7C25DE73256FA153F41,
    0xC35EE23D47C940C05BED2C749CBFDA75,
    0x9FBAD564ACEF2A7E829DBCDF7A8E8980,
    0x9BB6C158E82365AFEA256FB1C843C554,
    0xFC1F2163A5F407091B2D7799B0CB46CA,
    0x45CF4ADE798B8691A8E33E42C651F30E,
    0x12365AEE297B8D8C8F8A8594A7F20D17,
    0x394BDD7C8497A2FD1C246CB4C752F600 ]

/-- The table of R22: row r holds LOG[16r] to LOG[16r+15]; the first byte of the first row is no entry. -/
def logRows : List Nat :=
  [ 0x0000190132021AC64BC71B6833EEDF03,
    0x6404E00E348D81EF4C7108C8F8691CC1,
    0x7DC21DB5F9B9276A4DE4A6729AC90978,
    0x652F8A05210FE12412F082453593DA8E,
    0x968FDBBD36D0CE94135CD2F140468338,
    0x66DDFD30BF068B62B325E29822889110,
    0x7E6E48C3A3B61E423A6B2854FA853DBA,
    0x2B790A159B9F5ECA4ED4ACE5F373A757,
    0xAF58A850F4EAD6744FAEE9D5E7E6ADE8,
    0x2CD7757AEB160BF559CB5FB09CA951A0,
    0x7F0CF66F17C449ECD8431F2DA4767BB7,
    0xCCBB3E5AFB60B1863B52A16CAA55299D,
    0x97B2879061BEDCFCBC95CFCD373F5BD1,
    0x5339843C41A26D47142A9E5D56F2D3AB,
    0x441192D923202E89B47CB8267799E3A5,
    0x674AEDDEC531FE180D638C80C0F77007 ]

/-- Byte `i` of a table of 16-entry rows. -/
def tableByte (rows : List Nat) (i : Nat) : Nat :=
  (rows.getD (i / 16) 0 >>> (8 * (15 - i % 16))) % 256

/-- ALOG, indexed 0 to 254 (R21). -/
def alog (i : Fin 255) : Symbol := BitVec.ofNat 8 (tableByte alogRows i.val)

/-- LOG, which has no entry for 0 (R22; spec/93_implementation_defined.md U1). -/
def log? (a : Symbol) : Option (Fin 255) :=
  if a = 0#8 then none else some (Fin.ofNat 255 (tableByte logRows a.toNat))

/-- ALOG[i mod 255] = α^i, for any i ≥ 0 (R106). -/
def alphaPow (i : Nat) : Symbol := alog (Fin.ofNat 255 i)

/-- α^(−j) = ALOG[(255 − j) mod 255], for j ≤ 255 (R106). -/
def alphaPowNeg (j : Nat) : Symbol := alphaPow (255 - j)

/-! ## The product of polynomials over GF(2) reduced modulo POLY -/

/-- One turn of R21's loop on `(a, r)`: bit i of b adds a to the result, then a is multiplied by x and reduced. -/
def xmulStep (b : Symbol) (ar : Nat × Symbol) (i : Nat) : Nat × Symbol :=
  let r := if b.getLsbD i then ar.2 ^^^ BitVec.ofNat 8 ar.1 else ar.2
  let a := ar.1 <<< 1
  (if a.testBit 8 then a ^^^ Config.poly else a, r)

/-- `xmul(a, b)` of R21. -/
def xmul (a b : Symbol) : Symbol := ((List.range 8).foldl (xmulStep b) (a.toNat, 0#8)).2

/-! ## The six field functions -/

/-- R100. -/
def gfAdd (a b : Symbol) : Symbol := a ^^^ b

/-- R101. -/
def gfSub (a b : Symbol) : Symbol := a ^^^ b

/-- R102: 0 if an operand is 0, which is tested before any table is read. -/
def gfMul (a b : Symbol) : Symbol :=
  match log? a, log? b with
  | some x, some y => alphaPow (x.val + y.val)
  | _, _ => 0#8

/-- The body of R103 after its test of the divisor. Every caller has b ≠ 0; `gfDiv` is the function with the test. -/
def gfQuot (a b : Symbol) : Symbol :=
  match log? a, log? b with
  | some x, some y => alphaPow (x.val + 255 - y.val)
  | _, _ => 0#8

/-- R103: `none` is DivisionByZero. -/
def gfDiv (a b : Symbol) : Option Symbol :=
  if b = 0#8 then none else some (gfQuot a b)

/-- R104: `none` is DivisionByZero. -/
def gfInv (a : Symbol) : Option Symbol :=
  match log? a with
  | none => none
  | some x => some (alphaPow (255 - x.val))

/-- R105, defined for every natural e, with 0^0 = 1 (D2). -/
def gfPow (a : Symbol) (e : Nat) : Symbol :=
  match log? a with
  | none => if e = 0 then 1#8 else 0#8
  | some x => alphaPow (x.val * e)

end Sys2Proof.Machine
end

