-- ==== Sys2Proof/Machine/PolyAlgebra.lean ====
section
/-! DEFINITION. The polynomial functions (spec/41_polynomial.md R130 to R138). A polynomial is a sequence of symbols,
index 0 the highest-degree coefficient (R13). No result is trimmed. -/

namespace Sys2Proof.Machine

/-- The coefficient of x^e in p, 0 beyond the length (R13). -/
def coef (p : Poly) (e : Nat) : Symbol :=
  if e < p.length then p.getD (p.length - 1 - e) 0#8 else 0#8

/-- `p` left-padded with zeros to n elements (R13, R130). -/
def padLeft (n : Nat) (p : Poly) : Poly := zeros (n - p.length) ++ p

/-- R130. -/
def polyAdd (a b : Poly) : Poly :=
  let n := max a.length b.length
  List.zipWith gfAdd (padLeft n a) (padLeft n b)

/-- R131. -/
def polySub (a b : Poly) : Poly := polyAdd a b

/-- `v` XORed into the first elements of `w`; elements of `v` beyond the length of `w` are dropped. -/
def xorPrefix : Poly → Poly → Poly
  | x :: w, y :: v => gfAdd x y :: xorPrefix w v
  | w, [] => w
  | [], _ :: _ => []

/-- Every element of `p` multiplied by `c`. -/
def scale (c : Symbol) (p : Poly) : Poly := p.map (gfMul c)

/-- The convolution of R132 for a non-empty `b`: row i of its double loop adds a[i]·b at index i. -/
def polyMulRows : Poly → Poly → Poly
  | [], b => zeros (b.length - 1)
  | x :: a, b => xorPrefix (0#8 :: polyMulRows a b) (scale x b)

/-- R132. An empty operand gives the empty sequence (D10). -/
def polyMul (a b : Poly) : Poly :=
  if a.length = 0 ∨ b.length = 0 then [] else polyMulRows a b

/-- `nq` turns of the loop of R133 on the working copy `w`: each turn divides the leading element of `w` by `b[0]`,
subtracts that multiple of `b`, and drops the leading element, which has become 0. What is left of `w` is the
remainder. The working copy never runs out before the turns do (`w` has at least `nq + len(b) − 1` elements). -/
def polyDivLoop (b : Poly) : Nat → Poly → Poly × Poly
  | 0, w => ([], w)
  | _ + 1, [] => ([], [])
  | nq + 1, x :: w =>
    let c := gfQuot x (b.headD 0#8)
    let qr := polyDivLoop b nq (xorPrefix w (scale c b.tail))
    (c :: qr.1, qr.2)

/-- R133 after its test of the divisor; every caller has `b[0] ≠ 0`. A dividend shorter than the divisor gives an
empty quotient and itself as the remainder. -/
def polyLongDiv (a b : Poly) : Poly × Poly :=
  if a.length < b.length then ([], a) else polyDivLoop b (a.length - b.length + 1) a

/-- The divisors on which R133 and R134 fail: the empty sequence, or `b[0] = 0`. -/
def badDivisor (b : Poly) : Bool := decide (b.headD 0#8 = 0#8)

/-- R133: the quotient and the remainder; `none` is DivisionByZero. -/
def polyDivmod (a b : Poly) : Option (Poly × Poly) :=
  if badDivisor b then none else some (polyLongDiv a b)

/-- R134: the remainder alone, under the same failure condition. -/
def polyMod (a b : Poly) : Option Poly := (polyDivmod a b).map Prod.snd

/-- R135: Horner's method from the highest-degree coefficient. -/
def polyEval (p : Poly) (x : Symbol) : Symbol :=
  p.foldl (fun acc c => gfAdd (gfMul acc x) c) 0#8

end Sys2Proof.Machine
end

