-- ==== Sys2Proof/Machine/Codec.lean ====
section
/-! DEFINITION. The functions of the encoder (spec/42_encoder.md R160, R165) and of the decoder's five stages
(spec/43_decoder.md R182 to R210). `none` is UncorrectableError. N = 255; m is the number of parity symbols. -/

namespace Sys2Proof.Machine

/-- The XOR of a list of symbols. -/
def xorAll (l : List Symbol) : Symbol := l.foldl gfAdd 0#8

/-- Every element is 0x00. -/
def allZero (p : Poly) : Bool := p.all (fun x => decide (x = 0#8))

/-! ## Encoder -/

/-- `genpoly(k)` of R160: the product of x + α^i for i = 0 to 255 − k − 1. -/
def genpoly (k : Nat) : Poly :=
  (List.range (Config.n - k)).foldl (fun g i => polyMul g [1#8, alphaPow i]) [1#8]

/-- `encode` of R165 with the generator polynomial given: the data, then the remainder of data·x^(255−k) by it. -/
def encodeWith (gen data : Poly) : Poly :=
  data ++ (polyLongDiv (data ++ zeros (Config.n - data.length)) gen).2

/-- `encode(data, k)` of R165, for len(data) = k. -/
def encodeBlock (data : Poly) (k : Nat) : Poly := encodeWith (genpoly k) data

/-! ## Stage 1: syndromes -/

/-- R182: element i is the value at α^i. -/
def syndromes (r : Poly) (m : Nat) : Poly :=
  (List.range m).map (fun i => polyEval r (alphaPow i))

/-! ## Stage 2: the error locator (Berlekamp-Massey) -/

/-- The working values of R187, indexed by the power of x. -/
structure BmState where
  /-- C, the current connection polynomial, m + 1 entries. -/
  conn : List Symbol
  /-- B, the copy of C at the last length change, m + 1 entries. -/
  prev : List Symbol
  /-- L, the length of the recurrence. -/
  len : Nat
  /-- sh. -/
  sh : Nat
  /-- b, the discrepancy at the last length change; never 0x00. -/
  lastD : Symbol
deriving DecidableEq, Repr

/-- The values before the first step (R187). -/
def bmInit (m : Nat) : BmState :=
  ⟨1#8 :: zeros m, 1#8 :: zeros m, 0, 1, 1#8⟩

/-- The discrepancy d of step r (R187). -/
def bmDiscrepancy (S : Poly) (st : BmState) (r : Nat) : Symbol :=
  gfAdd (S.getD r 0#8)
    (xorAll ((List.range st.len).map (fun i => gfMul (st.conn.getD (i + 1) 0#8) (S.getD (r - (i + 1)) 0#8))))

/-- C XOR (d / b)·x^sh·B. Entries of B that are 0x00 change nothing; an entry shifted beyond index m would be
dropped, the guard that R187 allows and that never fires. -/
def bmAdjust (st : BmState) (d : Symbol) : List Symbol :=
  xorPrefix st.conn (zeros st.sh ++ scale (gfQuot d st.lastD) st.prev)

/-- Step r of the iteration (R187). -/
def bmStep (S : Poly) (st : BmState) (r : Nat) : BmState :=
  let d := bmDiscrepancy S st r
  if d = 0#8 then { st with sh := st.sh + 1 }
  else if 2 * st.len ≤ r then
    { conn := bmAdjust st d, prev := st.conn, len := r + 1 - st.len, sh := 1, lastD := d }
  else { st with conn := bmAdjust st d, sh := st.sh + 1 }

/-- The iteration over r = 0 to m − 1. -/
def bmRun (S : Poly) : BmState := (List.range S.length).foldl (bmStep S) (bmInit S.length)

/-- `bm(S)` of R187: L + 1 symbols, element 0 the coefficient of x^L (R189); fails when L > floor(m / 2) (R188). -/
def bm (S : Poly) : Option Poly :=
  let st := bmRun S
  if st.len > S.length / 2 then none
  else some ((List.range (st.len + 1)).map (fun i => st.conn.getD (st.len - i) 0#8))

/-! ## Stage 3: root search (Chien) -/

/-- The j in 0 to 254, ascending, for which α^(−j) is a root (R191). -/
def rootPositions (lam : Poly) : Poly :=
  ((List.range 255).filter (fun j => decide (polyEval lam (alphaPowNeg j) = 0#8))).map (BitVec.ofNat 8)

/-- `chien(lam)` of R191: fails when the number of roots is not len(lam) − 1. -/
def chien (lam : Poly) : Option Poly :=
  let pos := rootPositions lam
  if pos.length + 1 = lam.length then some pos else none

/-! ## Stage 4: error magnitudes (Forney) -/

/-- Λ_i, the coefficient of x^i of a locator (R189, R202); 0x00 for i > L. -/
def locCoef (lam : Poly) (i : Nat) : Symbol := coef lam i

/-- Ω_c of R200, for a syndrome vector S: the XOR of Λ_i·S[c − i] over i = 0 to min(c, L). -/
def evaluatorCoef (S lam : Poly) (c : Nat) : Symbol :=
  xorAll ((List.range (min c (lam.length - 1) + 1)).map (fun i => gfMul (locCoef lam i) (S.getD (c - i) 0#8)))

/-- Ω as a polynomial with m coefficients, highest degree first (R200). -/
def evaluator (S lam : Poly) : Poly :=
  ((List.range S.length).map (evaluatorCoef S lam)).reverse

/-- Λ' as a polynomial with L coefficients, highest degree first: the coefficient of x^e is Λ_(e+1) when e + 1 is odd
and 0x00 when it is even (R201). -/
def derivative (lam : Poly) : Poly :=
  ((List.range (lam.length - 1)).map (fun e => if e % 2 = 0 then locCoef lam (e + 1) else 0#8)).reverse

/-- The magnitude at one position j (R202); `none` when Λ' is 0x00 at the root. -/
def magnitude (S lam : Poly) (j : Nat) : Option Symbol :=
  match gfDiv (polyEval (evaluator S lam) (alphaPowNeg j)) (polyEval (derivative lam) (alphaPowNeg j)) with
  | none => none
  | some q => some (gfMul (alphaPow j) q)

/-- `forney(S, lam, pos)` of R202, in list order. -/
def forney (S lam : Poly) : Poly → Option Poly
  | [] => some []
  | j :: pos =>
    match magnitude S lam j.toNat, forney S lam pos with
    | some e, some mag => some (e :: mag)
    | _, _ => none

/-! ## Stage 5: correction -/

/-- One correction of R206: element 254 − j is XORed with the magnitude. -/
def fixOne (w : Poly) (je : Symbol × Symbol) : Poly :=
  w.modify (254 - je.1.toNat) (fun x => gfAdd x je.2)

/-- `fix(r, pos, mag)` of R206, in list order. -/
def fix (r pos mag : Poly) : Poly := (pos.zip mag).foldl fixOne r

/-! ## The whole decoder -/

/-- Stages 2 to 5 of R210 on a word r whose syndromes S are not all 0x00: the corrected word and the number of
positions. The re-verification is mandatory. -/
def correctWord (r S : Poly) : Option (Poly × Nat) :=
  match bm S with
  | none => none
  | some lam =>
    match chien lam with
    | none => none
    | some pos =>
      match forney S lam pos with
      | none => none
      | some mag =>
        let w := fix r pos mag
        if allZero (syndromes w S.length) then some (w, pos.length) else none

/-- `decode(r, k)` of R210: the first k symbols of the corrected word and the number of positions corrected. -/
def decodeBlock (r : Poly) (k : Nat) : Option (Poly × Nat) :=
  let S := syndromes r (Config.n - k)
  if allZero S then some (r.take k, 0)
  else match correctWord r S with
    | none => none
    | some wc => some (wc.1.take k, wc.2)

end Sys2Proof.Machine
end

