-- ==== Sys2Proof/Machine/State.lean ====
section
/-! DEFINITION. The architectural state of one GF256-RS core (spec/10_state.md R20, R43), the causes of a failing
command (spec/60_exceptions.md R260), and the two reason types of the host's interface. The tables ALOG and LOG,
which R20 lists too, are constants (R23): `alog` and `log?` of GaloisField.lean (assumption log 2). -/

namespace Sys2Proof.Machine

/-- The outcome of a command, codes 0 to 7 in this order (R260). ECAUSE holds one of them (R30). -/
inductive Cause where
  /-- 0: success. -/
  | ok
  /-- 1: an immediate that stands for a symbol is above 255. -/
  | symbol
  /-- 2: a sequence operand does not have the length the command needs, or an illegal k. -/
  | length
  /-- 3: division by the zero element, or by a polynomial that is empty or has leading coefficient 0. -/
  | div0
  /-- 4: corruption exceeds the decoder's capacity, or an internal consistency check fails. -/
  | uncorr
  /-- 5: a command that needs K was issued with CFGV = 0. -/
  | noCfg
  /-- 6: the command word is not a valid encoding. -/
  | illegal
  /-- 7: an index, position or resulting length is outside what the register can hold or address. -/
  | range
deriving DecidableEq, Repr

/-- The state. `cmdPort` and `respPort` are the model's own bookkeeping of the two ports (R45, R50, R298;
assumption log 1); every other field is the spec's. -/
structure State where
  /-- The symbol registers s0 to s15 (R24). -/
  sreg : Vector Symbol 16
  /-- The polynomial registers p0 to p7, each a sequence of 0 to 512 symbols (R26). -/
  preg : Vector Poly 8
  /-- K, the data length, 0 to 254 (R31). -/
  k : Fin 255
  /-- CFGV, configuration valid (R31). -/
  cfgv : Bool
  /-- GEN, the cached generator polynomial (R32). -/
  gen : Poly
  /-- Z, the zero-syndrome flag (R29). -/
  z : Bool
  /-- NERR, the number of symbols the last RS.DEC corrected, 0 to 127 (R33). -/
  nerr : Fin 128
  /-- ES, the error-sticky flag (R30). -/
  es : Bool
  /-- ECAUSE, the first error cause; code 0 while none is recorded (R30). -/
  ecause : Cause
  /-- The command words presented and not yet taken, the next one first (R60). -/
  cmdPort : List Word
  /-- The response words produced, the oldest first (R60, R298). -/
  respPort : List Word
deriving DecidableEq, Repr

/-- The state when reset ends (R43, R290). No word has been presented and none answered. -/
def State.reset : State where
  sreg := Vector.replicate 16 0#8
  preg := Vector.replicate 8 []
  k := 0
  cfgv := false
  gen := []
  z := false
  nerr := 0
  es := false
  ecause := .ok
  cmdPort := []
  respPort := []

/-- Reasons for which the machine stops. There are NONE: "every command in every state has exactly one outcome"
(spec/93_implementation_defined.md part 2), a failure is an answer with a cause and the engine goes on (R264), and
with no word pending the block is idle (R281). So nothing raises a fault, and no statement needs to exclude one. -/
inductive Fault
deriving DecidableEq, Repr

/-- Reasons for which an instruction has no meaning. -/
inductive Refusal where
  /-- Raised by an arm of `exec` whose instruction has no meaning yet; no arm does. Safe: the machine stops. -/
  | notModelled (mnemonic : String)
deriving DecidableEq, Repr

/-- What a command answers. -/
abbrev Result := Host.Outcome State Fault Refusal

end Sys2Proof.Machine
end

