-- ==== Sys2Proof/Machine/Flags.lean ====
section
/-! DEFINITION. The flags Z, ES and ECAUSE, the count NERR, the cause codes, and the values of the five control and
status registers (spec/10_state.md R29 to R39, spec/60_exceptions.md R260). -/

namespace Sys2Proof.Machine

/-- The code of a cause (R260). -/
def causeCode : Cause → BitVec 8
  | .ok => 0
  | .symbol => 1
  | .length => 2
  | .div0 => 3
  | .uncorr => 4
  | .noCfg => 5
  | .illegal => 6
  | .range => 7

/-- What a failure with cause `c` records: only the first one since ES was last cleared (R30, R264). -/
def recordFailure (c : Cause) (s : State) : State :=
  if s.es then s else { s with es := true, ecause := c }

/-- What CLRERR does (R254). -/
def clearFailure (s : State) : State := { s with es := false, ecause := .ok }

/-- Z <- v (R29). -/
def setZ (v : Bool) (s : State) : State := { s with z := v }

/-- NERR <- cnt (R33). Counts of corrected positions are at most 127 (R33), so nothing wraps. -/
def setNerr (cnt : Nat) (s : State) : State := { s with nerr := Fin.ofNat 128 cnt }

/-- Z for a syndrome vector: 1 if every element is 0x00 (R184). -/
def zOf (S : Poly) : Bool := allZero S

/-- One bit as an integer. -/
def bit (b : Bool) : Nat := if b then 1 else 0

/-- CSR 0 FIELDID: the low 8 bits of POLY, then ALPHA (R34, R35). -/
def csrFieldId : Imm := BitVec.ofNat 8 Config.poly ++ Config.alpha

/-- CSR 1 CFG: (CFGV << 8) | K (R36). -/
def csrCfg (s : State) : Imm := BitVec.ofNat 16 (bit s.cfgv <<< 8 ||| s.k.val)

/-- CSR 2 STATUS: (ECAUSE << 8) | (ES << 1) | Z (R37). -/
def csrStatus (s : State) : Imm :=
  BitVec.ofNat 16 ((causeCode s.ecause).toNat <<< 8 ||| bit s.es <<< 1 ||| bit s.z)

/-- CSR 3 NERR (R38). -/
def csrNerr (s : State) : Imm := BitVec.ofNat 16 s.nerr.val

/-- CSR 4 PCAP (R39). -/
def csrPcap : Imm := BitVec.ofNat 16 Config.pcap

end Sys2Proof.Machine
end

