-- ==== Sys2Proof/Machine/Ops.lean ====
section
/-! DEFINITION. The named operations over the registers and the two ports, and the two ways in which every command
ends (spec/00_scope.md R15 to R18, spec/30_encoding.md R76, spec/60_exceptions.md R264). -/

namespace Sys2Proof.Machine

/-! ## Registers (R15) -/

/-- `s[i]`. -/
def readS (i : SReg) (s : State) : Symbol := s.sreg[i]

/-- `s[i] <- v`. -/
def writeS (i : SReg) (v : Symbol) (s : State) : State := { s with sreg := s.sreg.set i v }

/-- `p[i]`, the whole sequence. -/
def readP (i : PReg) (s : State) : Poly := s.preg[i]

/-- `p[i] <- q`: length and elements are replaced. -/
def writeP (i : PReg) (q : Poly) (s : State) : State := { s with preg := s.preg.set i q }

/-- `p[i][idx]`, defined for idx < len only (R16, R52). -/
def readElem (i : PReg) (idx : Nat) (s : State) : Option Symbol := (readP i s)[idx]?

/-- The writes of a successful RS.CFG k (R162). -/
def configure (k : Nat) (s : State) : State :=
  { s with k := Fin.ofNat 255 k, cfgv := true, gen := genpoly k, z := false, nerr := 0 }

/-- NK = 255 − K, the number of parity symbols and of syndromes (R31). -/
def parityCount (s : State) : Nat := Config.n - s.k.val

/-! ## The ports (R50, R60) -/

/-- The response word (R76). -/
def responseWord (c : Cause) (data : Imm) : Word := causeCode c ++ 0#8 ++ data

/-- One response word is produced. -/
def respond (c : Cause) (data : Imm) (s : State) : State :=
  { s with respPort := s.respPort ++ [responseWord c data] }

/-- The host presents the word that is taken next. -/
def present (w : Word) (s : State) : State := { s with cmdPort := w :: s.cmdPort }

/-- The word that is taken next is taken from the port; none while the block is idle (R60, R281). -/
def takeCommand (s : State) : Option (Word × State) :=
  match s.cmdPort with
  | [] => none
  | w :: rest => some (w, { s with cmdPort := rest })

/-! ## How a command ends (R17) -/

/-- `done(v)`: success, the response carries v (R17, R76). -/
def done (v : Imm) (s : State) : Result := .next (respond .ok v s)

/-- `raise c`: the one shared operation of a failing command. ES and ECAUSE record the first cause, the response
carries the cause and data 0, no other state changes, and the engine goes on with the next word (R17, R264, R268).
There is no return operation: the counterpart is `clearFailure` (R254, R269). -/
def raise (c : Cause) (s : State) : Result := .next (respond c 0#16 (recordFailure c s))

end Sys2Proof.Machine
end

