-- ==== Sys2Proof/Machine/Operands.lean ====
section
/-! DEFINITION. The operand forms that carry a condition of their own: symbol immediates, CSR numbers, vectors and
position lists (spec/30_encoding.md R77, spec/43_decoder.md R190, R196, R205). -/

namespace Sys2Proof.Machine

/-- The immediate of S.LI and P.PUSH as a symbol; `none` above 255 (R77, R230, R233). -/
def immSymbol (imm : Imm) : Option Symbol :=
  if imm.toNat > 255 then none else some (imm.extractLsb' 0 8)

/-- The value of the CSR a number names; `none` above 4 (R34, R252). -/
def readCsr (num : Imm) (s : State) : Option Imm :=
  match num.toNat with
  | 0 => some csrFieldId
  | 1 => some (csrCfg s)
  | 2 => some (csrStatus s)
  | 3 => some (csrNerr s)
  | 4 => some csrPcap
  | _ => none

/-- A symbol zero-extended to the data field (R231, R235). -/
def symData (v : Symbol) : Imm := v.setWidth 16

/-- A length or a count as the data field; at most 512 (R76). -/
def countData (n : Nat) : Imm := BitVec.ofNat 16 n

/-- The length of a syndrome vector that RS.BM and RS.FORNEY admit: 1 to 254 (R190, R205). -/
def goodVector (S : Poly) : Bool := decide (1 ≤ S.length ∧ S.length ≤ 254)

/-- A position list holds the value 255, which is no position (R196). -/
def hasBadPosition (pos : Poly) : Bool := pos.any (fun j => decide (j = 255#8))

end Sys2Proof.Machine
end

