-- ==== Sys2Proof/Machine/Decoder.lean ====
section
/-! DEFINITION. The Decoder commands (spec/43_decoder.md R184, R190, R197, R205, R208, R212). -/

namespace Sys2Proof.Machine

/-- RS.SYN pd, pa (R184): the response carries the new Z. -/
def execRsSyn (d a : PReg) (s : State) : Result :=
  if s.cfgv = false then raise .noCfg s
  else if (readP a s).length ≠ Config.n then raise .length s
  else
    let S := syndromes (readP a s) (parityCount s)
    done (countData (bit (zOf S))) (setZ (zOf S) (writeP d S s))

/-- RS.BM pd, pa (R190): the response carries L. -/
def execRsBm (d a : PReg) (s : State) : Result :=
  if goodVector (readP a s) = false then raise .length s
  else match bm (readP a s) with
    | none => raise .uncorr s
    | some lam => done (countData (lam.length - 1)) (writeP d lam s)

/-- RS.CHIEN pd, pa (R197): the response carries the number of positions. -/
def execRsChien (d a : PReg) (s : State) : Result :=
  if (readP a s).length = 0 then raise .length s
  else match chien (readP a s) with
    | none => raise .uncorr s
    | some pos => done (countData pos.length) (writeP d pos s)

/-- RS.FORNEY pd, psyn, ploc, ppos (R205). -/
def execRsForney (d a b c : PReg) (s : State) : Result :=
  if goodVector (readP a s) = false then raise .length s
  else if (readP b s).length = 0 then raise .length s
  else if hasBadPosition (readP c s) then raise .range s
  else match forney (readP a s) (readP b s) (readP c s) with
    | none => raise .uncorr s
    | some mag => done 0#16 (writeP d mag s)

/-- RS.FIX pd, prx, ppos, pmag (R208). Z is not written. -/
def execRsFix (d a b c : PReg) (s : State) : Result :=
  if (readP a s).length ≠ Config.n then raise .length s
  else if (readP b s).length ≠ (readP c s).length then raise .length s
  else if hasBadPosition (readP b s) then raise .range s
  else done 0#16 (writeP d (fix (readP a s) (readP b s) (readP c s)) s)

/-- RS.DEC pd, pa (R212): Z reports on the word as read, NERR and the response carry the number of symbols corrected. -/
def execRsDec (d a : PReg) (s : State) : Result :=
  if s.cfgv = false then raise .noCfg s
  else if (readP a s).length ≠ Config.n then raise .length s
  else match decodeBlock (readP a s) s.k.val with
    | none => raise .uncorr s
    | some dc =>
      done (countData dc.2)
        (setNerr dc.2 (setZ (zOf (syndromes (readP a s) (parityCount s))) (writeP d dc.1 s)))

end Sys2Proof.Machine
end

