-- ==== Sys2Proof/Machine/Encoder.lean ====
section
/-! DEFINITION. The Encoder commands (spec/42_encoder.md R162 to R166). -/

namespace Sys2Proof.Machine

/-- RS.CFG k (R162). -/
def execRsCfg (k : Imm) (s : State) : Result :=
  if k.toNat = 0 ∨ k.toNat ≥ 255 then raise .length s
  else done 0#16 (configure k.toNat s)

/-- RS.GEN pd (R164). -/
def execRsGen (d : PReg) (s : State) : Result :=
  if s.cfgv = false then raise .noCfg s
  else done 0#16 (writeP d s.gen s)

/-- RS.ENC pd, pa (R166), with the cached GEN (R32, R300). -/
def execRsEnc (d a : PReg) (s : State) : Result :=
  if s.cfgv = false then raise .noCfg s
  else if (readP a s).length ≠ s.k.val then raise .length s
  else done 0#16 (writeP d (encodeWith s.gen (readP a s)) s)

end Sys2Proof.Machine
end

