-- ==== Sys2Proof/Machine/FieldEngine.lean ====
section
/-! DEFINITION. The Field Engine commands (spec/40_field.md R110 to R115). No operand is range-checked: a symbol
register holds nothing but symbols (R117). -/

namespace Sys2Proof.Machine

/-- GF.ADD sd, sa, sb (R110). -/
def execGfAdd (d a b : SReg) (s : State) : Result :=
  done 0#16 (writeS d (gfAdd (readS a s) (readS b s)) s)

/-- GF.SUB sd, sa, sb (R111). -/
def execGfSub (d a b : SReg) (s : State) : Result :=
  done 0#16 (writeS d (gfSub (readS a s) (readS b s)) s)

/-- GF.MUL sd, sa, sb (R112). -/
def execGfMul (d a b : SReg) (s : State) : Result :=
  done 0#16 (writeS d (gfMul (readS a s) (readS b s)) s)

/-- GF.DIV sd, sa, sb (R113): sa the dividend, sb the divisor. -/
def execGfDiv (d a b : SReg) (s : State) : Result :=
  match gfDiv (readS a s) (readS b s) with
  | none => raise .div0 s
  | some q => done 0#16 (writeS d q s)

/-- GF.POW sd, sa, e (R114). -/
def execGfPow (d a : SReg) (e : Imm) (s : State) : Result :=
  done 0#16 (writeS d (gfPow (readS a s) e.toNat) s)

/-- GF.INV sd, sa (R115). -/
def execGfInv (d a : SReg) (s : State) : Result :=
  match gfInv (readS a s) with
  | none => raise .div0 s
  | some v => done 0#16 (writeS d v s)

end Sys2Proof.Machine
end

