-- ==== Sys2Proof/Machine/Polynomial.lean ====
section
/-! DEFINITION. The Polynomial Algebra commands (spec/41_polynomial.md R139 to R145). -/

namespace Sys2Proof.Machine

/-- P.ADD pd, pa, pb (R140). -/
def execPAdd (d a b : PReg) (s : State) : Result :=
  done 0#16 (writeP d (polyAdd (readP a s) (readP b s)) s)

/-- P.SUB pd, pa, pb (R141). -/
def execPSub (d a b : PReg) (s : State) : Result :=
  done 0#16 (writeP d (polySub (readP a s) (readP b s)) s)

/-- The product of R142 would have more than 512 elements. -/
def productTooLong (a b : Poly) : Bool :=
  decide (1 ≤ a.length ∧ 1 ≤ b.length ∧ a.length + b.length - 1 > Config.pcap)

/-- P.MUL pd, pa, pb (R142). -/
def execPMul (d a b : PReg) (s : State) : Result :=
  if productTooLong (readP a s) (readP b s) then raise .range s
  else done 0#16 (writeP d (polyMul (readP a s) (readP b s)) s)

/-- P.DIV pq, pr, pa, pb (R143): d the quotient, c the remainder, a the dividend, b the divisor. d = c is an illegal
encoding (R87); the decoder already refuses it. -/
def execPDiv (d a b c : PReg) (s : State) : Result :=
  if d = c then raise .illegal s
  else match polyDivmod (readP a s) (readP b s) with
    | none => raise .div0 s
    | some qr => done 0#16 (writeP c qr.2 (writeP d qr.1 s))

/-- P.MOD pd, pa, pb (R144). -/
def execPMod (d a b : PReg) (s : State) : Result :=
  match polyMod (readP a s) (readP b s) with
  | none => raise .div0 s
  | some r => done 0#16 (writeP d r s)

/-- P.EVAL sd, pa, sb (R145). -/
def execPEval (d : SReg) (a : PReg) (b : SReg) (s : State) : Result :=
  done 0#16 (writeS d (polyEval (readP a s) (readS b s)) s)

end Sys2Proof.Machine
end

