-- ==== Sys2Proof/Machine/System.lean ====
section
/-! DEFINITION. The system commands NOP, CSR.RD and CLRERR (spec/45_system.md R250 to R254). -/

namespace Sys2Proof.Machine

/-- NOP (R250). -/
def execNop (s : State) : Result := done 0#16 s

/-- CSR.RD n (R252). A CSR number above 4 is an illegal encoding; the decoder already refuses it. -/
def execCsrRd (num : Imm) (s : State) : Result :=
  match readCsr num s with
  | none => raise .illegal s
  | some v => done v s

/-- CLRERR (R254). -/
def execClrErr (s : State) : Result := done 0#16 (clearFailure s)

end Sys2Proof.Machine
end

