-- ==== Sys2Proof/Machine/Transfer.lean ====
section
/-! DEFINITION. The transfer and framing commands (spec/44_transfer_framer.md R230 to R238). -/

namespace Sys2Proof.Machine

/-- S.LI sd, imm (R230). -/
def execSLi (d : SReg) (imm : Imm) (s : State) : Result :=
  match immSymbol imm with
  | none => raise .symbol s
  | some v => done 0#16 (writeS d v s)

/-- S.GET sa (R231). -/
def execSGet (a : SReg) (s : State) : Result := done (symData (readS a s)) s

/-- P.CLR pd (R232). -/
def execPClr (d : PReg) (s : State) : Result := done 0#16 (writeP d [] s)

/-- P.PUSH pd, imm (R233): E_SYMBOL is checked before E_RANGE. -/
def execPPush (d : PReg) (imm : Imm) (s : State) : Result :=
  match immSymbol imm with
  | none => raise .symbol s
  | some v =>
    if (readP d s).length ≥ Config.pcap then raise .range s
    else done 0#16 (writeP d (readP d s ++ [v]) s)

/-- P.GET pa, imm (R235). -/
def execPGet (a : PReg) (idx : Imm) (s : State) : Result :=
  match readElem a idx.toNat s with
  | none => raise .range s
  | some v => done (symData v) s

/-- P.LEN pa (R236). -/
def execPLen (a : PReg) (s : State) : Result := done (countData (readP a s).length) s

/-- P.PADZ pd, imm (R238). -/
def execPPadz (d : PReg) (len : Imm) (s : State) : Result :=
  if (readP d s).length > len.toNat then raise .length s
  else if len.toNat > Config.pcap then raise .range s
  else done 0#16 (writeP d (readP d s ++ zeros (len.toNat - (readP d s).length)) s)

end Sys2Proof.Machine
end

