-- ==== Sys2Proof/Machine/Dispatch.lean ====
section
/-! DEFINITION. The meaning of every command: one arm per constructor of Instr (spec/30_encoding.md R80). -/

namespace Sys2Proof.Machine

def exec (i : Instr) (s : State) : Host.Outcome State Fault Refusal :=
  match i with
  | .nop => Sys2Proof.Machine.execNop s
  | .csrRd num => Sys2Proof.Machine.execCsrRd num s
  | .clrErr => Sys2Proof.Machine.execClrErr s
  | .sLi d imm => Sys2Proof.Machine.execSLi d imm s
  | .sGet a => Sys2Proof.Machine.execSGet a s
  | .gfAdd d a b => Sys2Proof.Machine.execGfAdd d a b s
  | .gfSub d a b => Sys2Proof.Machine.execGfSub d a b s
  | .gfMul d a b => Sys2Proof.Machine.execGfMul d a b s
  | .gfDiv d a b => Sys2Proof.Machine.execGfDiv d a b s
  | .gfPow d a e => Sys2Proof.Machine.execGfPow d a e s
  | .gfInv d a => Sys2Proof.Machine.execGfInv d a s
  | .pClr d => Sys2Proof.Machine.execPClr d s
  | .pPush d imm => Sys2Proof.Machine.execPPush d imm s
  | .pGet a idx => Sys2Proof.Machine.execPGet a idx s
  | .pLen a => Sys2Proof.Machine.execPLen a s
  | .pPadz d len => Sys2Proof.Machine.execPPadz d len s
  | .pAdd d a b => Sys2Proof.Machine.execPAdd d a b s
  | .pSub d a b => Sys2Proof.Machine.execPSub d a b s
  | .pMul d a b => Sys2Proof.Machine.execPMul d a b s
  | .pDiv d a b c => Sys2Proof.Machine.execPDiv d a b c s
  | .pMod d a b => Sys2Proof.Machine.execPMod d a b s
  | .pEval d a b => Sys2Proof.Machine.execPEval d a b s
  | .rsCfg k => Sys2Proof.Machine.execRsCfg k s
  | .rsGen d => Sys2Proof.Machine.execRsGen d s
  | .rsEnc d a => Sys2Proof.Machine.execRsEnc d a s
  | .rsSyn d a => Sys2Proof.Machine.execRsSyn d a s
  | .rsBm d a => Sys2Proof.Machine.execRsBm d a s
  | .rsChien d a => Sys2Proof.Machine.execRsChien d a s
  | .rsForney d a b c => Sys2Proof.Machine.execRsForney d a b c s
  | .rsFix d a b c => Sys2Proof.Machine.execRsFix d a b c s
  | .rsDec d a => Sys2Proof.Machine.execRsDec d a s

end Sys2Proof.Machine
end

