-- ==== Sys2Proof/Machine/Step.lean ====
section
/-! DEFINITION. One step of the engine: it takes the next word from the command port, decodes it and runs it
(spec/20_memory.md R60, R61); the answer to a word that is no command (spec/30_encoding.md R79); and the presentation of an
opcode-table row's word at the command port. -/

namespace Sys2Proof.Machine

/-- One step. With no word pending the block is idle and its state holds (R281). -/
def step (s : State) : Host.Outcome State Fault Refusal :=
  match takeCommand s with
  | none => .next s
  | some (w, s') =>
    match decode w with
    | .ok i => exec i s'
    | .error _ => raise .illegal s'

/-- The word of an opcode-table row presented as the one that the next step takes (R296). -/
def State.withFetchWord (s : State) (nbits w : Nat) : State := present (tableWord nbits w) s

end Sys2Proof.Machine
end

