-- ==== Sys2Proof/Safety.lean ====
section
/-! DEFINITION. The terms in which claims about the machine are stated: the invariant of the state (spec/10_state.md
R44), the legal words of the opcode map, which command writes what, the answer of a command, and the reference
arithmetic (sums of products, powers, distance) against which the model's functions are held. -/

namespace Sys2Proof.Machine

/-! ## The invariant -/

/-- Every polynomial register holds at most 512 symbols (R26): the canonical form of the only storage. -/
abbrev State.pregWf (s : State) : Prop := ∀ i : PReg, (readP i s).length ≤ 512

/-- R44: capacity, the invariant of ES and ECAUSE (R30), and the invariants of K, CFGV and GEN (R31, R32). That ES = 1
implies a recorded cause follows from R264, which records a cause other than 0. -/
abbrev State.Inv (s : State) : Prop :=
  s.pregWf ∧
  (s.es = false → s.ecause = .ok) ∧ (s.es = true → s.ecause ≠ .ok) ∧
  (s.cfgv = false → s.k = 0 ∧ s.gen = []) ∧
  (s.cfgv = true → 1 ≤ s.k.val ∧ s.gen = genpoly s.k.val)

/-! ## Words -/

/-- The words of the opcode map (R79 to R87): the fixed bits of some row, P.DIV with d ≠ c, CSR.RD of 0 to 4. -/
abbrev legalWord (w : Word) : Prop :=
  (∃ r ∈ opcodeRows, w &&& r.2 = r.1) ∧
  ¬ (opField w = 0x43#8 ∧ dField w = cField w) ∧
  ¬ (opField w = 0x01#8 ∧ 4#16 < immField w)

/-! ## The answer of a command -/

/-- `i` run in `s` goes on to `t` and answers with the cause `c` and the data `v`. -/
abbrev Answers (i : Instr) (s : State) (c : Cause) (v : Imm) (t : State) : Prop :=
  exec i s = .next t ∧ t.respPort = s.respPort ++ [responseWord c v]

/-- The commands run one after the other, as long as each answers with cause 0. -/
def runOk : List Instr → State → Option State
  | [], s => some s
  | i :: is, s =>
    match exec i s with
    | .next t => if (t.respPort.getLastD 0#32).extractLsb' 24 8 = 0#8 then runOk is t else none
    | .fault _ => none
    | .refused _ => none

/-! ## What a command may write -/

/-- The symbol register that a command writes (R25). -/
def destS : Instr → Option SReg
  | .sLi d _ | .gfAdd d _ _ | .gfSub d _ _ | .gfMul d _ _ | .gfDiv d _ _ | .gfPow d _ _ | .gfInv d _ | .pEval d _ _ =>
    some d
  | .nop | .csrRd _ | .clrErr | .sGet _ | .pClr _ | .pPush _ _ | .pGet _ _ | .pLen _ | .pPadz _ _
  | .pAdd _ _ _ | .pSub _ _ _ | .pMul _ _ _ | .pDiv _ _ _ _ | .pMod _ _ _ | .rsCfg _ | .rsGen _ | .rsEnc _ _
  | .rsSyn _ _ | .rsBm _ _ | .rsChien _ _ | .rsForney _ _ _ _ | .rsFix _ _ _ _ | .rsDec _ _ => none

/-- The polynomial registers that a command writes (R27). -/
def destP : Instr → List PReg
  | .pClr d | .pPush d _ | .pPadz d _ | .pAdd d _ _ | .pSub d _ _ | .pMul d _ _ | .pMod d _ _ | .rsGen d
  | .rsEnc d _ | .rsSyn d _ | .rsBm d _ | .rsChien d _ | .rsForney d _ _ _ | .rsFix d _ _ _ | .rsDec d _ => [d]
  | .pDiv d _ _ c => [d, c]
  | .nop | .csrRd _ | .clrErr | .sLi _ _ | .sGet _ | .gfAdd _ _ _ | .gfSub _ _ _ | .gfMul _ _ _ | .gfDiv _ _ _
  | .gfPow _ _ _ | .gfInv _ _ | .pGet _ _ | .pLen _ | .pEval _ _ _ | .rsCfg _ => []

/-- RS.CFG, the only command that writes K, CFGV and GEN (R163). -/
def isCfg : Instr → Bool
  | .rsCfg _ => true
  | _ => false

/-- The commands that write Z (R29). -/
def writesZ : Instr → Bool
  | .rsSyn _ _ | .rsDec _ _ | .rsCfg _ => true
  | _ => false

/-- The commands that write NERR (R33). -/
def writesNerr : Instr → Bool
  | .rsDec _ _ | .rsCfg _ => true
  | _ => false

/-- The commands whose successful response may carry data (R76). -/
def returnsData : Instr → Bool
  | .csrRd _ | .sGet _ | .pGet _ _ | .pLen _ | .rsSyn _ _ | .rsBm _ _ | .rsChien _ _ | .rsDec _ _ => true
  | _ => false

/-- The commands that may answer with a cause, by the column "raised by" of R260. -/
def mayRaise : Cause → Instr → Bool
  | .ok, _ => true
  | .symbol, .sLi _ _ | .symbol, .pPush _ _ => true
  | .length, .rsCfg _ | .length, .rsEnc _ _ | .length, .rsSyn _ _ | .length, .rsBm _ _ | .length, .rsChien _ _
  | .length, .rsForney _ _ _ _ | .length, .rsFix _ _ _ _ | .length, .rsDec _ _ | .length, .pPadz _ _ => true
  | .div0, .gfDiv _ _ _ | .div0, .gfInv _ _ | .div0, .pDiv _ _ _ _ | .div0, .pMod _ _ _ => true
  | .uncorr, .rsBm _ _ | .uncorr, .rsChien _ _ | .uncorr, .rsForney _ _ _ _ | .uncorr, .rsDec _ _ => true
  | .noCfg, .rsGen _ | .noCfg, .rsEnc _ _ | .noCfg, .rsSyn _ _ | .noCfg, .rsDec _ _ => true
  | .range, .pPush _ _ | .range, .pGet _ _ | .range, .pPadz _ _ | .range, .pMul _ _ _
  | .range, .rsForney _ _ _ _ | .range, .rsFix _ _ _ _ => true
  | .illegal, i => ! wellFormed i
  | _, _ => false

/-! ## Reference arithmetic -/

/-- a^e as e-fold multiplication by the shift-and-reduce product, with a^0 = 1. -/
def xpow (a : Symbol) : Nat → Symbol
  | 0 => 1#8
  | e + 1 => xmul (xpow a e) a

/-- The XOR of f(0), …, f(n − 1). -/
def xorSum (n : Nat) (f : Nat → Symbol) : Symbol := (List.range n).foldl (fun acc i => acc ^^^ f i) 0#8

/-- The number of elements in which two words of equal length differ. -/
def distance (u v : Poly) : Nat := ((u.zip v).filter (fun xy => decide (xy.1 ≠ xy.2))).length

/-- Λ_0 = 1, Λ_1, …, Λ_L satisfy the linear recurrence that the syndrome vector S implies (R186). -/
abbrev Recurs (S : Poly) (L : Nat) (lam : Nat → Symbol) : Prop :=
  lam 0 = 1#8 ∧ ∀ r, L ≤ r → r < S.length → xorSum (L + 1) (fun i => xmul (lam i) (S.getD (r - i) 0#8)) = 0#8

/-- Ω(x) by R200: the sum over c below m of Ω_c·x^c, with Ω_c the sum of Λ_i·S[c − i] over i = 0 to min(c, L). -/
def omegaAt (S lam : Poly) (x : Symbol) : Symbol :=
  xorSum S.length (fun c =>
    xmul (xorSum (min c (lam.length - 1) + 1) (fun i => xmul (coef lam i) (S.getD (c - i) 0#8))) (xpow x c))

/-- Λ'(x) by R201: the sum of Λ_i·x^(i − 1) over the odd i from 1 to L. -/
def lambdaPrimeAt (lam : Poly) (x : Symbol) : Symbol :=
  xorSum (lam.length - 1) (fun e => if e % 2 = 0 then xmul (coef lam (e + 1)) (xpow x e) else 0#8)

/-- Stages 1 to 5 and the re-verification of R213 as separate commands, on the received word in p1. -/
def stagedDecode : List Instr :=
  [.rsSyn 2 1, .rsBm 3 2, .rsChien 4 3, .rsForney 5 2 3 4, .rsFix 6 1 4 5, .rsSyn 7 6]

end Sys2Proof.Machine
end

