-- ==== Sys2Proof/Certificates/Slice0/Obligations.lean ====
section
/-! DEFINITION. The statements for the provers, each named for what it states. OBLIGATIONS.json lists them with their
tiers and the rules of spec/ they rest on. `recordFailure`, `respond`, `writeS`, `writeP` are the model's named updates. -/

open Sys2Proof Sys2Proof.Machine

/-- One word of each family written out from the opcode map decodes to its command, and one word for each illegality is refused by its name: reserved opcode, non-zero must-be-zero field, polynomial register above 7, P.DIV with d = c, CSR number above 4. (spec/30_encoding.md section 5, spec/95_test_vectors.md section 2.7) -/
def Obligations.DecodeSpecExampleWords : Prop :=
  decode 0x00000000#32 = .ok .nop ∧ decode 0x01000002#32 = .ok (.csrRd 2) ∧
  decode 0x10100057#32 = .ok (.sLi 1 0x57) ∧ decode 0x32000001#32 = .ok (.pGet 0 1) ∧
  decode 0x22312000#32 = .ok (.gfMul 3 1 2) ∧ decode 0x43201300#32 = .ok (.pDiv 2 0 1 3) ∧
  decode 0x45201000#32 = .ok (.pEval 2 0 1) ∧ decode 0x500000DF#32 = .ok (.rsCfg 223) ∧
  decode 0x65100000#32 = .ok (.rsDec 1 0) ∧ decode 0x63523400#32 = .ok (.rsForney 5 2 3 4) ∧
  decode 0xFFFFFFFF#32 = .error .reservedOpcode ∧ decode 0x20312001#32 = .error .nonZeroField ∧
  decode 0x40801000#32 = .error .badPolyReg ∧ decode 0x43201200#32 = .error .sameDestinations ∧
  decode 0x01000005#32 = .error .badCsr

/-- For every well-formed command i, with every operand at every value its encoding admits, decode (encode i) is i. (spec/30_encoding.md sections 1 to 3) -/
def Obligations.DecodeOfEncodeIsIdentity : Prop :=
  ∀ i : Instr, wellFormed i = true → decode (encode i) = .ok i

/-- For every 32-bit word w, if decode w is the command i then i is well-formed and encode i is w: no bit of a word is dropped and no two words mean the same command. (spec/30_encoding.md sections 1 to 3) -/
def Obligations.EncodeOfDecodeIsIdentity : Prop :=
  ∀ (w : Word) (i : Instr), decode w = .ok i → wellFormed i = true ∧ encode i = w

/-- For every 32-bit word w, w decodes to a command if and only if it has the fixed bits of a row of the opcode map, is not P.DIV with d = c, and is not CSR.RD of a number above 4; and every word either decodes or is refused. (spec/30_encoding.md sections 2 to 4) -/
def Obligations.DecodeAcceptsExactlyLegalWords : Prop :=
  ∀ w : Word, ((∃ i, decode w = .ok i) ↔ legalWord w) ∧ ((∃ i, decode w = .ok i) ∨ ∃ e, decode w = .error e)

/-- When the next word at the command port is not a legal word of the opcode map (reserved opcode, a non-zero must-be-zero bit or field, a polynomial register 8 to 15, P.DIV with d = c, a CSR number above 4), the step takes it, answers E_ILLEGAL with data 0, and changes no state other than ES and ECAUSE. (R82, R83, R86) -/
def Obligations.IllegalWordIsAnsweredAndChangesNothing : Prop :=
  ∀ (s : State) (w : Word) (rest : List Word), s.cmdPort = w :: rest → ¬ legalWord w →
    step s = .next (respond .illegal 0#16 (recordFailure .illegal { s with cmdPort := rest })) ∧
    (s.es = true → recordFailure .illegal { s with cmdPort := rest } = { s with cmdPort := rest }) ∧
    (s.es = false →
      recordFailure .illegal { s with cmdPort := rest } = { s with cmdPort := rest, es := true, ecause := .illegal })

/-- When the next word at the command port decodes to the command i, the step takes the word from the port and is exec of i on the state that is left. (spec/20_memory.md section 6, spec/30_encoding.md section 2) -/
def Obligations.StepRunsDecodedCommand : Prop :=
  ∀ (s : State) (w : Word) (rest : List Word) (i : Instr), s.cmdPort = w :: rest → decode w = .ok i →
    step s = exec i { s with cmdPort := rest }

/-- When no word is pending at the command port, a step changes nothing. That a step of the model may find the port empty is the reading of R281 in log entry 12, on the port list of log entry 1. (spec/60_exceptions.md section 6) -/
def Obligations.StepIdlesWithNoWordPending : Prop :=
  ∀ s : State, s.cmdPort = [] → step s = .next s

/-- From any state, one step takes the first pending word and appends exactly one response word; and running as many steps as there are pending words empties the port and appends exactly that many responses, in order. (R60) -/
def Obligations.EveryWordIsAnsweredOnceInOrder : Prop :=
  (∀ (s : State) (w : Word) (rest : List Word), s.cmdPort = w :: rest →
    ∃ t r, step s = .next t ∧ t.cmdPort = rest ∧ t.respPort = s.respPort ++ [r]) ∧
  (∀ s : State, ∃ t rs, Host.Core.run Sys2Proof.core s.cmdPort.length s = .next t ∧ t.cmdPort = [] ∧
    rs.length = s.cmdPort.length ∧ t.respPort = s.respPort ++ rs)

/-- Every command, in every state, goes on with exactly one response word: the cause code in bits 31:24, 0 in bits 23:16, the data in bits 15:0; the data is 0 when the cause is not 0, and 0 for every command other than CSR.RD, S.GET, P.GET, P.LEN, RS.SYN, RS.BM, RS.CHIEN, RS.DEC. (spec/30_encoding.md section 1) -/
def Obligations.ResponseWordLayout : Prop :=
  (∀ (i : Instr) (s : State), ∃ c v t, exec i s = .next (respond c v t) ∧ t.respPort = s.respPort ∧
    (c ≠ .ok → v = 0#16) ∧ (returnsData i = false → v = 0#16)) ∧
  (∀ (c : Cause) (v : Imm) (t : State), (respond c v t).respPort = t.respPort ++ [responseWord c v] ∧
    (responseWord c v).extractLsb' 24 8 = causeCode c ∧ (responseWord c v).extractLsb' 16 8 = 0#8 ∧
    (responseWord c v).extractLsb' 0 16 = v)

/-- At reset every symbol register is 0x00, every polynomial register and GEN are empty, K = 0, CFGV = 0, Z = 0, NERR = 0, ES = 0, ECAUSE = 0, and the tables ALOG and LOG are those of R21 and R22. (R43) -/
def Obligations.ResetValues : Prop :=
  (∀ r : SReg, readS r State.reset = 0x00#8) ∧ (∀ r : PReg, readP r State.reset = []) ∧
  State.reset.k.val = 0 ∧ State.reset.cfgv = false ∧ State.reset.gen = [] ∧ State.reset.z = false ∧
  State.reset.nerr.val = 0 ∧ State.reset.es = false ∧ causeCode State.reset.ecause = 0#8 ∧
  alog 0 = 0x01#8 ∧ (∀ i : Fin 254, alog i.succ = xmul (alog i.castSucc) 0x03#8) ∧
  (∀ i : Fin 255, log? (alog i) = some i)

/-- ALOG[0] = 0x01 and ALOG[i+1] = xmul(ALOG[i], 0x03); the 255 entries are pairwise distinct, none is 0, and the recurrence closes at ALOG[0]; LOG[ALOG[i]] = i for every i; ALOG[LOG[a]] = a for every non-zero a; LOG[0] does not exist. (R21, R22) -/
def Obligations.FieldTables : Prop :=
  alog 0 = 0x01#8 ∧ (∀ i : Fin 254, alog i.succ = xmul (alog i.castSucc) Config.alpha) ∧
  xmul (alog 254) Config.alpha = alog 0 ∧ (∀ i : Fin 255, alog i ≠ 0#8) ∧
  (∀ i : Fin 255, log? (alog i) = some i) ∧ (∀ i j : Fin 255, alog i = alog j → i = j) ∧
  (∀ a : Symbol, a ≠ 0#8 → ∃ i, log? a = some i ∧ alog i = a) ∧ log? 0#8 = none

/-- The reset state satisfies Inv: register lengths at most 512, ES = 0 with ECAUSE = 0, CFGV = 0 with K = 0 and GEN empty. The clause that ES = 1 has a recorded cause is the model's inference, log entry 11. (spec/10_state.md section 11) -/
def Obligations.ResetSatisfiesInvariant : Prop :=
  State.reset.Inv

/-- For every state s with Inv s (every polynomial register at most 512 symbols; ES = 0 exactly when no cause is recorded; CFGV = 0 with K = 0 and GEN empty; CFGV = 1 with 1 <= K and GEN = genpoly(K)), if a step goes on to t then Inv t. That ES = 1 has a recorded cause is the model's inference, log entry 11. (spec/10_state.md section 11) -/
def Obligations.StepKeepsInvariant : Prop :=
  ∀ s t : State, s.Inv → step s = .next t → t.Inv

/-- Whenever a command answers with a cause other than 0, the next state is the old one with that response word (cause in bits 31:24, all else 0) and, if ES was 0, ES = 1 and ECAUSE = the cause; if ES was 1, nothing else changed. The engine goes on. (R264) -/
def Obligations.FailureRecordsOnlyTheFirstCause : Prop :=
  ∀ (i : Instr) (s t : State) (c : Cause) (v : Imm), Answers i s c v t → c ≠ .ok →
    v = 0#16 ∧ responseWord c v = BitVec.ofNat 32 ((causeCode c).toNat <<< 24) ∧
    t = respond c 0#16 (if s.es then s else { s with es := true, ecause := c })

/-- For every command other than CSR.RD, changing ES and ECAUSE of the state changes neither the cause, nor the data, nor any other part of the next state. (spec/10_state.md section 6) -/
def Obligations.ErrorRecordNeverSteersACommand : Prop :=
  ∀ (i : Instr) (s : State) (e : Bool) (c : Cause), (∀ n, i ≠ .csrRd n) →
    ∃ k v t t', exec i s = .next (respond k v t) ∧
      exec i { s with es := e, ecause := c } = .next (respond k v t') ∧
      { t' with es := t.es, ecause := t.ecause } = t

/-- Every command other than CLRERR that succeeds leaves ES and ECAUSE as they were; and when ES = 1, every command other than CLRERR leaves ES = 1 and ECAUSE at the first cause. (spec/10_state.md section 6, spec/45_system.md) -/
def Obligations.OnlyClrErrClearsTheErrorRecord : Prop :=
  ∀ (i : Instr) (s t : State), i ≠ .clrErr → exec i s = .next t →
    (s.es = true → t.es = true ∧ t.ecause = s.ecause) ∧
    (∀ v, Answers i s .ok v t → t.es = s.es ∧ t.ecause = s.ecause)

/-- For every command i: every symbol register other than the destination of S.LI, GF.ADD, GF.SUB, GF.MUL, GF.DIV, GF.POW, GF.INV and P.EVAL is unchanged; every other command changes none. (spec/10_state.md section 3) -/
def Obligations.SymbolRegisterFrame : Prop :=
  ∀ (i : Instr) (s t : State) (r : SReg), exec i s = .next t → destS i ≠ some r → readS r t = readS r s

/-- For every command i: every polynomial register that is no destination of i (P.DIV has two destinations) keeps its whole value, and every element of it reads as before; CSR.RD, S.*, GF.*, P.GET, P.LEN, P.EVAL, RS.CFG, NOP and CLRERR change none. (spec/10_state.md section 4) -/
def Obligations.PolynomialRegisterFrame : Prop :=
  ∀ (i : Instr) (s t : State) (r : PReg), exec i s = .next t → r ∉ destP i →
    readP r t = readP r s ∧ ∀ idx, readElem r idx t = readElem r idx s

/-- Every command other than RS.CFG leaves K, CFGV and GEN as they were. (spec/10_state.md section 7, spec/42_encoder.md section 2) -/
def Obligations.ConfigurationFrame : Prop :=
  ∀ (i : Instr) (s t : State), exec i s = .next t → isCfg i = false →
    t.k = s.k ∧ t.cfgv = s.cfgv ∧ t.gen = s.gen

/-- Every command other than RS.SYN, RS.DEC and RS.CFG leaves Z as it was, and every command other than RS.DEC and RS.CFG leaves NERR as it was. (spec/10_state.md sections 6 and 7) -/
def Obligations.FlagFrame : Prop :=
  ∀ (i : Instr) (s t : State), exec i s = .next t →
    (writesZ i = false → t.z = s.z) ∧ (writesNerr i = false → t.nerr = s.nerr)

/-- For every command and state, changing what is pending at the command port and what was answered at the response port changes neither the response nor any register of the next state; the command itself touches neither, but for its one response. The two port lists are the model's bookkeeping, log entry 1. (spec/20_memory.md section 6) -/
def Obligations.CommandDependsOnStateAndWordAlone : Prop :=
  ∀ (i : Instr) (s : State) (cmds resps : List Word), ∃ c v t,
    exec i s = .next (respond c v t) ∧ t.cmdPort = s.cmdPort ∧ t.respPort = s.respPort ∧
    exec i { s with cmdPort := cmds, respPort := resps } =
      .next (respond c v { t with cmdPort := cmds, respPort := resps })

/-- Whenever a command answers with a cause, it is one of the commands that the cause table lists for that cause: so RS.ENC, RS.DEC and the stage commands never answer E_DIV0, and a well-formed command never answers E_ILLEGAL. (spec/60_exceptions.md section 1) -/
def Obligations.CausesByCommand : Prop :=
  ∀ (i : Instr) (s t : State) (c : Cause) (v : Imm), Answers i s c v t → mayRaise c i = true

/-- NOP (the word 0x00000000) answers 0x00000000 and changes nothing else. CLRERR (the word 0x02000000) answers 0x00000000, sets ES and ECAUSE to 0 and changes nothing else. No other command clears ES. A word of either opcode with a non-zero bit in 23:0 is refused. (R250, R254) -/
def Obligations.NopAndClrErrCommands : Prop :=
  decode 0x00000000#32 = .ok .nop ∧ decode 0x02000000#32 = .ok .clrErr ∧
  (∀ w : Word, opField w = 0x00#8 ∨ opField w = 0x02#8 → zField w ≠ 0#24 → decode w = .error .nonZeroField) ∧
  responseWord .ok 0#16 = 0x00000000#32 ∧
  (∀ s : State, exec .nop s = .next (respond .ok 0#16 s)) ∧
  (∀ s : State, exec .clrErr s = .next (respond .ok 0#16 { s with es := false, ecause := .ok })) ∧
  (∀ (i : Instr) (s t : State), i ≠ .clrErr → exec i s = .next t → s.es = true → t.es = true)

/-- CSR.RD n answers 0x1B03 for n = 0, 256·CFGV + K for n = 1, 256·ECAUSE + 2·ES + Z for n = 2, NERR for n = 3, 0x0200 for n = 4, and changes no other state (so it does not clear ES); for n above 4 it answers E_ILLEGAL and its word is refused by the decoder. (R252) -/
def Obligations.CsrRdCommand : Prop :=
  (∀ n : Imm, n ≤ 4#16 → decode (wordI 0x01#8 0#4 0#4 n) = .ok (.csrRd n)) ∧
  (∀ n : Imm, ¬ n ≤ 4#16 → decode (wordI 0x01#8 0#4 0#4 n) = .error .badCsr) ∧
  ∀ s : State,
    exec (.csrRd 0) s = .next (respond .ok 0x1B03#16 s) ∧
    exec (.csrRd 1) s = .next (respond .ok (BitVec.ofNat 16 (256 * s.cfgv.toNat + s.k.val)) s) ∧
    exec (.csrRd 2) s =
      .next (respond .ok (BitVec.ofNat 16 (256 * (causeCode s.ecause).toNat + 2 * s.es.toNat + s.z.toNat)) s) ∧
    exec (.csrRd 3) s = .next (respond .ok (BitVec.ofNat 16 s.nerr.val) s) ∧
    exec (.csrRd 4) s = .next (respond .ok 0x0200#16 s) ∧
    ∀ n : Imm, ¬ n ≤ 4#16 → exec (.csrRd n) s = .next (respond .illegal 0#16 (recordFailure .illegal s))

/-- S.LI sd, imm: for imm at most 255, s[d] is imm and nothing else changes; for imm of 256 to 65535 it answers E_SYMBOL. (R230) -/
def Obligations.SLiCommand : Prop :=
  ∀ (d : SReg) (imm : Imm) (s : State),
    decode (wordI 0x10#8 (specS d) 0#4 imm) = .ok (.sLi d imm) ∧
    (255 < imm.toNat → exec (.sLi d imm) s = .next (respond .symbol 0#16 (recordFailure .symbol s))) ∧
    (imm.toNat ≤ 255 → exec (.sLi d imm) s = .next (respond .ok 0#16 (writeS d (BitVec.ofNat 8 imm.toNat) s)))

/-- S.GET sa answers s[a] zero-extended, P.LEN pa answers len(p[a]), which is 0 to 512; neither changes any other state. (R231, R236) -/
def Obligations.SGetAndPLenCommands : Prop :=
  (∀ (a : SReg) (s : State), decode (wordR 0x11#8 0#4 (specS a) 0#4 0#4) = .ok (.sGet a) ∧
    ∃ v : Imm, v.toNat = (readS a s).toNat ∧ exec (.sGet a) s = .next (respond .ok v s)) ∧
  (∀ a : PReg, decode (wordR 0x33#8 0#4 (specP a) 0#4 0#4) = .ok (.pLen a)) ∧
  (∀ (a : PReg) (s : State), s.pregWf →
    ∃ v : Imm, v.toNat = (readP a s).length ∧ v.toNat ≤ 512 ∧ exec (.pLen a) s = .next (respond .ok v s))

/-- P.CLR pd leaves p[d] the empty sequence and changes nothing else; it cannot fail. (R232) -/
def Obligations.PClrCommand : Prop :=
  ∀ (d : PReg) (s : State), decode (wordR 0x30#8 (specP d) 0#4 0#4 0#4) = .ok (.pClr d) ∧
    exec (.pClr d) s = .next (respond .ok 0#16 (writeP d [] s))

/-- P.PUSH pd, imm: imm above 255 answers E_SYMBOL (checked first); a register of 512 symbols answers E_RANGE; otherwise imm is appended as the last element and nothing else changes. (R233) -/
def Obligations.PPushCommand : Prop :=
  ∀ (d : PReg) (imm : Imm) (s : State),
    decode (wordI 0x31#8 (specP d) 0#4 imm) = .ok (.pPush d imm) ∧
    (255 < imm.toNat → exec (.pPush d imm) s = .next (respond .symbol 0#16 (recordFailure .symbol s))) ∧
    (imm.toNat ≤ 255 → 512 ≤ (readP d s).length → exec (.pPush d imm) s = .next (respond .range 0#16 (recordFailure .range s))) ∧
    (imm.toNat ≤ 255 → (readP d s).length < 512 →
      exec (.pPush d imm) s = .next (respond .ok 0#16 (writeP d (readP d s ++ [BitVec.ofNat 8 imm.toNat]) s)))

/-- P.GET pa, imm answers element imm of p[a], zero-extended, and changes nothing else; for imm at or beyond the length it answers E_RANGE. (R235) -/
def Obligations.PGetCommand : Prop :=
  ∀ (a : PReg) (idx : Imm) (s : State),
    decode (wordI 0x32#8 0#4 (specP a) idx) = .ok (.pGet a idx) ∧
    ((readP a s).length ≤ idx.toNat → exec (.pGet a idx) s = .next (respond .range 0#16 (recordFailure .range s))) ∧
    (∀ h : idx.toNat < (readP a s).length,
      ∃ v : Imm, v.toNat = ((readP a s)[idx.toNat]).toNat ∧ exec (.pGet a idx) s = .next (respond .ok v s))

/-- P.PADZ pd, imm: when p[d] holds more than imm symbols it answers E_LENGTH; when imm exceeds 512 it answers E_RANGE; otherwise p[d] becomes itself followed by zeros up to length imm and nothing else changes. (R238) -/
def Obligations.PPadzCommand : Prop :=
  ∀ (d : PReg) (len : Imm) (s : State),
    decode (wordI 0x34#8 (specP d) 0#4 len) = .ok (.pPadz d len) ∧
    (len.toNat < (readP d s).length → exec (.pPadz d len) s = .next (respond .length 0#16 (recordFailure .length s))) ∧
    ((readP d s).length ≤ len.toNat → 512 < len.toNat → exec (.pPadz d len) s = .next (respond .range 0#16 (recordFailure .range s))) ∧
    ((readP d s).length ≤ len.toNat → len.toNat ≤ 512 →
      exec (.pPadz d len) s =
        .next (respond .ok 0#16 (writeP d (readP d s ++ zeros (len.toNat - (readP d s).length)) s)) ∧
      (readP d s ++ zeros (len.toNat - (readP d s).length)).length = len.toNat)

/-- For all symbols a and b, gf_mul(a, b) by the LOG and ALOG tables equals xmul(a, b), the carry-less product reduced modulo 0x11B. (R108) -/
def Obligations.MulIsShiftReduceProduct : Prop :=
  ∀ a b : Symbol, gfMul a b = xmul a b

/-- gf_add is associative and commutative with identity 0 and every element its own negative; gf_mul is associative and commutative with identity 1, absorbing 0, distributes over gf_add and has no zero divisors; inverse and divide behave as in a field and fail exactly on 0; the power laws hold for all a including 0. (R109) -/
def Obligations.FieldLaws : Prop :=
  (∀ a b c : Symbol, gfAdd (gfAdd a b) c = gfAdd a (gfAdd b c) ∧ gfAdd a b = gfAdd b a ∧ gfAdd a 0#8 = a ∧
    gfAdd a a = 0#8 ∧ gfSub a b = gfAdd a b) ∧
  (∀ a b c : Symbol, gfMul (gfMul a b) c = gfMul a (gfMul b c) ∧ gfMul a b = gfMul b a ∧ gfMul a 1#8 = a ∧
    gfMul a 0#8 = 0#8 ∧ gfMul a (gfAdd b c) = gfAdd (gfMul a b) (gfMul a c)) ∧
  (∀ a b : Symbol, a ≠ 0#8 → b ≠ 0#8 → gfMul a b ≠ 0#8) ∧
  (∀ a : Symbol, a ≠ 0#8 → ∃ v, gfInv a = some v ∧ gfMul a v = 1#8 ∧ ∀ b, gfDiv b a = some (gfMul b v)) ∧
  gfInv 0#8 = none ∧ (∀ a : Symbol, gfDiv a 0#8 = none) ∧
  (∀ a : Symbol, gfPow a 0 = 1#8 ∧ gfPow a 1 = a) ∧
  (∀ (a : Symbol) (e f : Nat), gfPow a (e + f) = gfMul (gfPow a e) (gfPow a f)) ∧
  (∀ a : Symbol, a ≠ 0#8 → gfPow a 255 = 1#8 ∧ gfInv a = some (gfPow a 254))

/-- GF.ADD and GF.SUB sd, sa, sb write s[a] XOR s[b] to s[d], read before written, and change nothing else; neither can fail. (R110, R111) -/
def Obligations.GfAddAndGfSubCommands : Prop :=
  ∀ (d a b : SReg) (s : State),
    decode (wordR 0x20#8 (specS d) (specS a) (specS b) 0#4) = .ok (.gfAdd d a b) ∧
    decode (wordR 0x21#8 (specS d) (specS a) (specS b) 0#4) = .ok (.gfSub d a b) ∧
    exec (.gfAdd d a b) s = .next (respond .ok 0#16 (writeS d (readS a s ^^^ readS b s) s)) ∧
    exec (.gfSub d a b) s = .next (respond .ok 0#16 (writeS d (readS a s ^^^ readS b s) s))

/-- GF.MUL sd, sa, sb writes gf_mul(s[a], s[b]), which is the product of the two polynomials over GF(2) reduced modulo 0x11B, to s[d] and changes nothing else; it cannot fail. (R112) -/
def Obligations.GfMulCommand : Prop :=
  ∀ (d a b : SReg) (s : State),
    decode (wordR 0x22#8 (specS d) (specS a) (specS b) 0#4) = .ok (.gfMul d a b) ∧
    exec (.gfMul d a b) s = .next (respond .ok 0#16 (writeS d (xmul (readS a s) (readS b s)) s)) ∧
    gfMul (readS a s) (readS b s) = xmul (readS a s) (readS b s)

/-- GF.DIV sd, sa, sb: a divisor of 0 answers E_DIV0, whatever the dividend; otherwise s[d] is gf_div(s[a], s[b]), the only symbol q with q·s[b] = s[a], and nothing else changes. (R113) -/
def Obligations.GfDivCommand : Prop :=
  ∀ (d a b : SReg) (s : State),
    decode (wordR 0x23#8 (specS d) (specS a) (specS b) 0#4) = .ok (.gfDiv d a b) ∧
    (readS b s = 0#8 → exec (.gfDiv d a b) s = .next (respond .div0 0#16 (recordFailure .div0 s))) ∧
    (readS b s ≠ 0#8 → ∃ q, gfDiv (readS a s) (readS b s) = some q ∧ xmul q (readS b s) = readS a s ∧
      (∀ q', xmul q' (readS b s) = readS a s → q' = q) ∧
      exec (.gfDiv d a b) s = .next (respond .ok 0#16 (writeS d q s)))

/-- GF.POW sd, sa, e writes gf_pow(s[a], e), the e-fold product of s[a] (1 for e = 0, for every base including 0), to s[d] and changes nothing else; it cannot fail. (R114) -/
def Obligations.GfPowCommand : Prop :=
  ∀ (d a : SReg) (e : Imm) (s : State),
    decode (wordI 0x24#8 (specS d) (specS a) e) = .ok (.gfPow d a e) ∧
    exec (.gfPow d a e) s = .next (respond .ok 0#16 (writeS d (xpow (readS a s) e.toNat) s)) ∧
    gfPow (readS a s) e.toNat = xpow (readS a s) e.toNat

/-- GF.INV sd, sa: a source of 0 answers E_DIV0; otherwise s[d] is gf_inv(s[a]), whose product with s[a] is 1, and nothing else changes. (R115) -/
def Obligations.GfInvCommand : Prop :=
  ∀ (d a : SReg) (s : State),
    decode (wordR 0x25#8 (specS d) (specS a) 0#4 0#4) = .ok (.gfInv d a) ∧
    (readS a s = 0#8 → exec (.gfInv d a) s = .next (respond .div0 0#16 (recordFailure .div0 s))) ∧
    (readS a s ≠ 0#8 → ∃ v, gfInv (readS a s) = some v ∧ xmul (readS a s) v = 1#8 ∧
      exec (.gfInv d a) s = .next (respond .ok 0#16 (writeS d v s)))

/-- P.ADD and P.SUB pd, pa, pb write one sequence of length max(len(p[a]), len(p[b])) whose coefficient of x^e is the XOR of the sources' coefficients of x^e, and change nothing else; neither can fail. (R130, R131, R140, R141) -/
def Obligations.PAddAndPSubCommands : Prop :=
  ∀ (d a b : PReg) (s : State),
    decode (wordR 0x40#8 (specP d) (specP a) (specP b) 0#4) = .ok (.pAdd d a b) ∧
    decode (wordR 0x41#8 (specP d) (specP a) (specP b) 0#4) = .ok (.pSub d a b) ∧
    ∃ r : Poly, r = polyAdd (readP a s) (readP b s) ∧ r = polySub (readP a s) (readP b s) ∧
      r.length = max (readP a s).length (readP b s).length ∧
      (∀ e, coef r e = coef (readP a s) e ^^^ coef (readP b s) e) ∧
      exec (.pAdd d a b) s = .next (respond .ok 0#16 (writeP d r s)) ∧
      exec (.pSub d a b) s = .next (respond .ok 0#16 (writeP d r s))

/-- P.MUL pd, pa, pb: two non-empty sources whose product would have more than 512 elements answer E_RANGE; otherwise p[d] has len(p[a]) + len(p[b]) - 1 elements (none if a source is empty), its coefficient of x^e is the sum of the products of coefficients with exponents adding to e, and nothing else changes. (R132, R142) -/
def Obligations.PMulCommand : Prop :=
  ∀ (d a b : PReg) (s : State),
    decode (wordR 0x42#8 (specP d) (specP a) (specP b) 0#4) = .ok (.pMul d a b) ∧
    (readP a s ≠ [] ∧ readP b s ≠ [] ∧ 512 < (readP a s).length + (readP b s).length - 1 →
      exec (.pMul d a b) s = .next (respond .range 0#16 (recordFailure .range s))) ∧
    (¬ (readP a s ≠ [] ∧ readP b s ≠ [] ∧ 512 < (readP a s).length + (readP b s).length - 1) →
      ∃ r : Poly, r = polyMul (readP a s) (readP b s) ∧
        r.length = (if readP a s = [] ∨ readP b s = [] then 0 else (readP a s).length + (readP b s).length - 1) ∧
        (∀ e, coef r e = xorSum (e + 1) (fun i => xmul (coef (readP a s) i) (coef (readP b s) (e - i)))) ∧
        exec (.pMul d a b) s = .next (respond .ok 0#16 (writeP d r s)))

/-- P.DIV pq, pr, pa, pb: with equal destinations the word is refused and the command answers E_ILLEGAL; a divisor that is empty or has leading element 0 answers E_DIV0; otherwise p[q] and p[r] receive poly_divmod(p[a], p[b]), of lengths len(a)-len(b)+1 and len(b)-1 (0 and len(a) for a short dividend), with quotient·divisor + remainder = dividend as sequences, and nothing else changes. (R136, R143) -/
def Obligations.PDivCommand : Prop :=
  ∀ (d a b c : PReg) (s : State),
    (d = c → decode (wordR 0x43#8 (specP d) (specP a) (specP b) (specP c)) = .error .sameDestinations ∧
      exec (.pDiv d a b c) s = .next (respond .illegal 0#16 (recordFailure .illegal s))) ∧
    (d ≠ c → decode (wordR 0x43#8 (specP d) (specP a) (specP b) (specP c)) = .ok (.pDiv d a b c)) ∧
    (d ≠ c → (readP b s).headD 0#8 = 0#8 → exec (.pDiv d a b c) s = .next (respond .div0 0#16 (recordFailure .div0 s))) ∧
    (d ≠ c → (readP b s).headD 0#8 ≠ 0#8 →
      ∃ q r : Poly, polyDivmod (readP a s) (readP b s) = some (q, r) ∧
        q.length = (if (readP a s).length < (readP b s).length then 0 else (readP a s).length - (readP b s).length + 1) ∧
        r.length = (if (readP a s).length < (readP b s).length then (readP a s).length else (readP b s).length - 1) ∧
        polyAdd (polyMul q (readP b s)) r = readP a s ∧
        exec (.pDiv d a b c) s = .next (respond .ok 0#16 (writeP c r (writeP d q s))))

/-- P.MOD pd, pa, pb: a divisor that is empty or has leading element 0 answers E_DIV0; otherwise p[d] is the remainder of poly_divmod(p[a], p[b]), for which some quotient satisfies quotient·divisor + remainder = dividend, and nothing else changes. (R134, R144) -/
def Obligations.PModCommand : Prop :=
  ∀ (d a b : PReg) (s : State),
    decode (wordR 0x44#8 (specP d) (specP a) (specP b) 0#4) = .ok (.pMod d a b) ∧
    ((readP b s).headD 0#8 = 0#8 → exec (.pMod d a b) s = .next (respond .div0 0#16 (recordFailure .div0 s))) ∧
    ((readP b s).headD 0#8 ≠ 0#8 →
      ∃ q r : Poly, polyDivmod (readP a s) (readP b s) = some (q, r) ∧ polyMod (readP a s) (readP b s) = some r ∧
        polyAdd (polyMul q (readP b s)) r = readP a s ∧
        exec (.pMod d a b) s = .next (respond .ok 0#16 (writeP d r s)))

/-- P.EVAL sd, pa, sb writes to s[d] the sum over e of coef(p[a], e)·s[b]^e, which is 0 for an empty p[a], and changes nothing else; it cannot fail. (R135, R145) -/
def Obligations.PEvalCommand : Prop :=
  ∀ (d : SReg) (a : PReg) (b : SReg) (s : State),
    decode (wordR 0x45#8 (specS d) (specP a) (specS b) 0#4) = .ok (.pEval d a b) ∧
    exec (.pEval d a b) s = .next (respond .ok 0#16 (writeS d (polyEval (readP a s) (readS b s)) s)) ∧
    polyEval (readP a s) (readS b s) =
      xorSum (readP a s).length (fun e => xmul (coef (readP a s) e) (xpow (readS b s) e))

/-- poly_add is associative and commutative; poly_mul is associative and commutative and distributes over poly_add, as equality of sequences, empty operands included; evaluation respects sums and products; a dividend and its remainder have the same value at every root of the divisor. (R138) -/
def Obligations.PolynomialLaws : Prop :=
  (∀ a b c : Poly, polyAdd (polyAdd a b) c = polyAdd a (polyAdd b c) ∧ polyAdd a b = polyAdd b a) ∧
  (∀ a b c : Poly, polyMul (polyMul a b) c = polyMul a (polyMul b c) ∧ polyMul a b = polyMul b a ∧
    polyMul a (polyAdd b c) = polyAdd (polyMul a b) (polyMul a c)) ∧
  (∀ (a b : Poly) (x : Symbol), polyEval (polyAdd a b) x = polyEval a x ^^^ polyEval b x) ∧
  (∀ (a b : Poly) (x : Symbol), a ≠ [] → b ≠ [] → polyEval (polyMul a b) x = gfMul (polyEval a x) (polyEval b x)) ∧
  (∀ (a b q r : Poly) (x : Symbol), polyDivmod a b = some (q, r) → polyEval b x = 0#8 → polyEval a x = polyEval r x)

/-- For 1 <= k <= 254, genpoly(k) has 255 - k + 1 elements, the first 0x01, and its roots are exactly the powers 0 to 255-k-1 of the generator element; and genpoly(254), (253), (252), (251), (249), (223) are the sequences the spec prints. (R161) -/
def Obligations.GenpolyRootsAndExamples : Prop :=
  (∀ k : Nat, 1 ≤ k → k ≤ 254 →
    (genpoly k).length = 255 - k + 1 ∧ (genpoly k).headD 0#8 = 0x01#8 ∧
    ∀ x : Symbol, polyEval (genpoly k) x = 0#8 ↔ ∃ i, i < 255 - k ∧ x = alphaPow i) ∧
  genpoly 254 = [0x01, 0x01] ∧ genpoly 253 = [0x01, 0x02, 0x03] ∧ genpoly 252 = [0x01, 0x07, 0x09, 0x0F] ∧
  genpoly 251 = [0x01, 0x08, 0x24, 0x78, 0x55] ∧ genpoly 249 = [0x01, 0x2A, 0x01, 0xB7, 0x33, 0x9B, 0x35] ∧
  genpoly 223 = [0x01, 0x72, 0x55, 0x27, 0xC5, 0x24, 0x7E, 0x11, 0xA9, 0xCF, 0x32, 0x32, 0xE5, 0xDD, 0xAE, 0x98, 0x0A,
    0x2F, 0x25, 0x83, 0x9C, 0xEB, 0x3B, 0xDF, 0xD3, 0x1E, 0xF3, 0x83, 0x14, 0xF6, 0x25, 0xC6, 0x4B]

/-- RS.CFG k: for k = 0 or k >= 255 it answers E_LENGTH and the configuration keeps its old values; otherwise K = k, CFGV = 1, GEN = genpoly(k), Z = 0, NERR = 0, and nothing else changes. (R162) -/
def Obligations.RsCfgCommand : Prop :=
  ∀ (k : Imm) (s : State),
    decode (wordI 0x50#8 0#4 0#4 k) = .ok (.rsCfg k) ∧
    (k.toNat = 0 ∨ 255 ≤ k.toNat → exec (.rsCfg k) s = .next (respond .length 0#16 (recordFailure .length s))) ∧
    (k.toNat ≠ 0 → ∀ h : k.toNat < 255,
      exec (.rsCfg k) s =
        .next (respond .ok 0#16
          { s with k := ⟨k.toNat, h⟩, cfgv := true, gen := genpoly k.toNat, z := false, nerr := 0 }))

/-- RS.GEN pd: with CFGV = 0 it answers E_NOCFG; with CFGV = 1 it copies GEN to p[d], which in every state that satisfies the invariant is genpoly(K) of 255 - K + 1 elements, at most 255, and changes nothing else. (R164) -/
def Obligations.RsGenCommand : Prop :=
  ∀ (d : PReg) (s : State),
    decode (wordR 0x51#8 (specP d) 0#4 0#4 0#4) = .ok (.rsGen d) ∧
    (s.cfgv = false → exec (.rsGen d) s = .next (respond .noCfg 0#16 (recordFailure .noCfg s))) ∧
    (s.cfgv = true → exec (.rsGen d) s = .next (respond .ok 0#16 (writeP d s.gen s))) ∧
    (s.cfgv = true → s.Inv →
      exec (.rsGen d) s = .next (respond .ok 0#16 (writeP d (genpoly s.k.val) s)) ∧
      (genpoly s.k.val).length = 255 - s.k.val + 1 ∧ (genpoly s.k.val).length ≤ 255)

/-- RS.ENC pd, pa in every state that satisfies the invariant: with CFGV = 0 it answers E_NOCFG; else with len(p[a]) other than K it answers E_LENGTH; else p[d] is encode(p[a], K), 255 symbols of which the first K are p[a], and nothing else changes. (R165, R166) -/
def Obligations.RsEncCommand : Prop :=
  ∀ (d a : PReg) (s : State), s.Inv →
    decode (wordR 0x52#8 (specP d) (specP a) 0#4 0#4) = .ok (.rsEnc d a) ∧
    (s.cfgv = false → exec (.rsEnc d a) s = .next (respond .noCfg 0#16 (recordFailure .noCfg s))) ∧
    (s.cfgv = true → (readP a s).length ≠ s.k.val → exec (.rsEnc d a) s = .next (respond .length 0#16 (recordFailure .length s))) ∧
    (s.cfgv = true → (readP a s).length = s.k.val →
      ∃ rem : Poly, polyMod (readP a s ++ zeros (255 - s.k.val)) (genpoly s.k.val) = some rem ∧
        rem.length = 255 - s.k.val ∧ encodeBlock (readP a s) s.k.val = readP a s ++ rem ∧
        exec (.rsEnc d a) s = .next (respond .ok 0#16 (writeP d (readP a s ++ rem) s)))

/-- For 1 <= k <= 254 and data of k symbols, the codeword has 255 symbols, begins with the data, leaves the zero remainder of length 255 - k by genpoly(k), and evaluates to zero at the powers 0 to 255-k-1 of the generator element; and the XOR of two codewords is the codeword of the XOR of the data. (R167) -/
def Obligations.CodewordProperties : Prop :=
  ∀ (k : Nat) (data data' : Poly), 1 ≤ k → k ≤ 254 → data.length = k → data'.length = k →
    (encodeBlock data k).length = 255 ∧ (encodeBlock data k).take k = data ∧
    polyMod (encodeBlock data k) (genpoly k) = some (zeros (255 - k)) ∧
    (∀ i, i < 255 - k → polyEval (encodeBlock data k) (alphaPow i) = 0#8) ∧
    List.zipWith (· ^^^ ·) (encodeBlock data k) (encodeBlock data' k) =
      encodeBlock (List.zipWith (· ^^^ ·) data data') k

/-- RS.SYN pd, pa: with CFGV = 0 it answers E_NOCFG; else with len(p[a]) other than 255 it answers E_LENGTH; else p[d] has 255 - K elements, element i the value of p[a] at the i-th power of the generator element, Z is 1 exactly when all are 0x00, the response data is the new Z, and nothing else changes. (R184) -/
def Obligations.RsSynCommand : Prop :=
  ∀ (d a : PReg) (s : State),
    decode (wordR 0x60#8 (specP d) (specP a) 0#4 0#4) = .ok (.rsSyn d a) ∧
    (s.cfgv = false → exec (.rsSyn d a) s = .next (respond .noCfg 0#16 (recordFailure .noCfg s))) ∧
    (s.cfgv = true → (readP a s).length ≠ 255 → exec (.rsSyn d a) s = .next (respond .length 0#16 (recordFailure .length s))) ∧
    (s.cfgv = true → (readP a s).length = 255 →
      ∃ (S : Poly) (zero : Bool), S.length = 255 - s.k.val ∧
        (∀ i, i < 255 - s.k.val → S.getD i 0#8 = polyEval (readP a s) (alphaPow i)) ∧
        (zero = true ↔ ∀ x ∈ S, x = 0x00#8) ∧
        exec (.rsSyn d a) s =
          .next (respond .ok (if zero then 1#16 else 0#16) { writeP d S s with z := zero }))

/-- For 1 <= k <= 254 and a word r of 255 symbols, all 255 - k syndromes of r are zero if and only if r is the codeword of its first k symbols. (spec/42_encoder.md section 3, spec/43_decoder.md section 2) -/
def Obligations.SyndromesZeroIffCodeword : Prop :=
  ∀ (k : Nat) (r : Poly), 1 ≤ k → k ≤ 254 → r.length = 255 →
    ((∀ i, i < 255 - k → polyEval r (alphaPow i) = 0#8) ↔ r = encodeBlock (r.take k) k)

/-- RS.BM pd, pa: a source of 0 or more than 254 symbols answers E_LENGTH; else, when bm fails, E_UNCORR; else p[d] is the locator of L + 1 symbols, the response data is L, at most floor(len(p[a]) / 2) and at most 127, and nothing else changes. No configuration is needed. (R190) -/
def Obligations.RsBmCommand : Prop :=
  ∀ (d a : PReg) (s : State),
    decode (wordR 0x61#8 (specP d) (specP a) 0#4 0#4) = .ok (.rsBm d a) ∧
    ((readP a s).length = 0 ∨ 254 < (readP a s).length → exec (.rsBm d a) s = .next (respond .length 0#16 (recordFailure .length s))) ∧
    (1 ≤ (readP a s).length → (readP a s).length ≤ 254 →
      (bm (readP a s) = none → exec (.rsBm d a) s = .next (respond .uncorr 0#16 (recordFailure .uncorr s))) ∧
      (∀ lam, bm (readP a s) = some lam →
        1 ≤ lam.length ∧ lam.length - 1 ≤ (readP a s).length / 2 ∧ lam.length - 1 ≤ 127 ∧
        exec (.rsBm d a) s = .next (respond .ok (BitVec.ofNat 16 (lam.length - 1)) (writeP d lam s))))

/-- For every syndrome vector S of m = 1 to 254 symbols there is a least L for which some coefficients with the constant one 1 satisfy the linear recurrence of S; when 2L <= m those coefficients are unique; bm(S) fails exactly when L > floor(m/2), and otherwise is the coefficients 0 to L, highest first. (spec/43_decoder.md section 3) -/
def Obligations.BmFindsTheLeastRecurrence : Prop :=
  ∀ S : Poly, 1 ≤ S.length → S.length ≤ 254 →
    ∃ (L : Nat) (lam : Nat → Symbol), Recurs S L lam ∧ (∀ L' lam', Recurs S L' lam' → L ≤ L') ∧
      (2 * L ≤ S.length → ∀ lam', Recurs S L lam' → ∀ i, i ≤ L → lam' i = lam i) ∧
      bm S = if S.length / 2 < L then none else some ((List.range (L + 1)).map (fun i => lam (L - i)))

/-- RS.CHIEN pd, pa: an empty source answers E_LENGTH; when the number of j in 0..254 with p[a] zero at the (-j)-th power of the generator element is not len(p[a]) - 1 it answers E_UNCORR; else p[d] is the list of exactly those j, strictly ascending, the response data is their number, and nothing else changes. (R191, R197) -/
def Obligations.RsChienCommand : Prop :=
  ∀ (d a : PReg) (s : State),
    decode (wordR 0x62#8 (specP d) (specP a) 0#4 0#4) = .ok (.rsChien d a) ∧
    (readP a s = [] → exec (.rsChien d a) s = .next (respond .length 0#16 (recordFailure .length s))) ∧
    (readP a s ≠ [] → ∀ n : Nat,
      n = ((List.range 255).filter (fun j => polyEval (readP a s) (alog (Fin.ofNat 255 (255 - j))) = 0#8)).length →
      (n ≠ (readP a s).length - 1 → exec (.rsChien d a) s = .next (respond .uncorr 0#16 (recordFailure .uncorr s))) ∧
      (n = (readP a s).length - 1 →
        ∃ pos : Poly, pos.length = n ∧ pos.Pairwise (fun x y => x.toNat < y.toNat) ∧
          (∀ j : Symbol, j ∈ pos ↔ j.toNat ≤ 254 ∧ polyEval (readP a s) (alog (Fin.ofNat 255 (255 - j.toNat))) = 0#8) ∧
          exec (.rsChien d a) s = .next (respond .ok (BitVec.ofNat 16 n) (writeP d pos s))))

/-- RS.FORNEY pd, psyn, ploc, ppos: a syndrome vector of 0 or more than 254 symbols or an empty locator answers E_LENGTH; else a position 255 answers E_RANGE; else a listed position j with Lambda'(1/X) = 0, X the j-th power of the generator element, answers E_UNCORR; else p[d] holds, in list order, the magnitude e with e·Lambda'(1/X) = X·Omega(1/X) for each position, and nothing else changes. (R205) -/
def Obligations.RsForneyCommand : Prop :=
  ∀ (d a b c : PReg) (s : State),
    decode (wordR 0x63#8 (specP d) (specP a) (specP b) (specP c)) = .ok (.rsForney d a b c) ∧
    ((readP a s).length = 0 ∨ 254 < (readP a s).length ∨ (readP b s).length = 0 →
      exec (.rsForney d a b c) s = .next (respond .length 0#16 (recordFailure .length s))) ∧
    (1 ≤ (readP a s).length → (readP a s).length ≤ 254 → 1 ≤ (readP b s).length →
      (255#8 ∈ readP c s → exec (.rsForney d a b c) s = .next (respond .range 0#16 (recordFailure .range s))) ∧
      (255#8 ∉ readP c s → (∃ j ∈ readP c s, lambdaPrimeAt (readP b s) (alphaPowNeg j.toNat) = 0#8) →
        exec (.rsForney d a b c) s = .next (respond .uncorr 0#16 (recordFailure .uncorr s))) ∧
      (255#8 ∉ readP c s → (∀ j ∈ readP c s, lambdaPrimeAt (readP b s) (alphaPowNeg j.toNat) ≠ 0#8) →
        ∃ mag : Poly, mag.length = (readP c s).length ∧
          (∀ l, l < (readP c s).length →
            xmul (mag.getD l 0#8) (lambdaPrimeAt (readP b s) (alphaPowNeg ((readP c s).getD l 0#8).toNat)) =
              xmul (alphaPow ((readP c s).getD l 0#8).toNat)
                (omegaAt (readP a s) (readP b s) (alphaPowNeg ((readP c s).getD l 0#8).toNat))) ∧
          exec (.rsForney d a b c) s = .next (respond .ok 0#16 (writeP d mag s))))

/-- RS.FIX pd, prx, ppos, pmag: a word of other than 255 symbols or lists of unequal length answer E_LENGTH; else a position 255 answers E_RANGE; else p[d] has 255 symbols, element q being element q of p[rx] XORed with every magnitude whose position is 254 - q (twice if listed twice), and nothing else changes, Z included. (R206, R208) -/
def Obligations.RsFixCommand : Prop :=
  ∀ (d a b c : PReg) (s : State),
    decode (wordR 0x64#8 (specP d) (specP a) (specP b) (specP c)) = .ok (.rsFix d a b c) ∧
    ((readP a s).length ≠ 255 ∨ (readP b s).length ≠ (readP c s).length →
      exec (.rsFix d a b c) s = .next (respond .length 0#16 (recordFailure .length s))) ∧
    ((readP a s).length = 255 → (readP b s).length = (readP c s).length →
      (255#8 ∈ readP b s → exec (.rsFix d a b c) s = .next (respond .range 0#16 (recordFailure .range s))) ∧
      (255#8 ∉ readP b s →
        ∃ w : Poly, w.length = 255 ∧
          (∀ q, q < 255 → w.getD q 0#8 = (readP a s).getD q 0#8 ^^^
            xorSum (readP b s).length (fun l =>
              if ((readP b s).getD l 0#8).toNat + q = 254 then (readP c s).getD l 0#8 else 0#8)) ∧
          exec (.rsFix d a b c) s = .next (respond .ok 0#16 (writeP d w s))))

/-- RS.DEC pd, pa: with CFGV = 0 it answers E_NOCFG; else with len(p[a]) other than 255, E_LENGTH; else, when decode fails, E_UNCORR; else p[d] is the K data symbols, Z is 1 exactly when every syndrome of the word as read was 0x00, NERR and the response data are the count, at most floor((255-K)/2), and nothing else changes. When every syndrome is zero it succeeds with the first K symbols, Z = 1 and count 0. (R212) -/
def Obligations.RsDecCommand : Prop :=
  ∀ (d a : PReg) (s : State),
    decode (wordR 0x65#8 (specP d) (specP a) 0#4 0#4) = .ok (.rsDec d a) ∧
    (s.cfgv = false → exec (.rsDec d a) s = .next (respond .noCfg 0#16 (recordFailure .noCfg s))) ∧
    (s.cfgv = true → (readP a s).length ≠ 255 → exec (.rsDec d a) s = .next (respond .length 0#16 (recordFailure .length s))) ∧
    (s.cfgv = true → (readP a s).length = 255 →
      (decodeBlock (readP a s) s.k.val = none → exec (.rsDec d a) s = .next (respond .uncorr 0#16 (recordFailure .uncorr s))) ∧
      (∀ (data : Poly) (cnt : Nat), decodeBlock (readP a s) s.k.val = some (data, cnt) →
        data.length = s.k.val ∧ cnt ≤ (255 - s.k.val) / 2 ∧
        exec (.rsDec d a) s =
          .next (respond .ok (BitVec.ofNat 16 cnt)
            { writeP d data s with
                z := decide (∀ i : Nat, i < 255 - s.k.val → polyEval (readP a s) (alphaPow i) = 0#8)
                nerr := Fin.ofNat 128 cnt })) ∧
      ((∀ i, i < 255 - s.k.val → polyEval (readP a s) (alphaPow i) = 0#8) →
        exec (.rsDec d a) s =
          .next (respond .ok 0#16 { writeP d ((readP a s).take s.k.val) s with z := true, nerr := 0 })))

/-- In every state that satisfies the invariant, when RS.DEC succeeds there is a codeword w whose first K symbols are the data written, and the received word differs from w in exactly as many elements as the response says, at most floor((255-K)/2): nothing else is ever returned. (spec/43_decoder.md section 7) -/
def Obligations.RsDecResultBelongsToANearCodeword : Prop :=
  ∀ (d a : PReg) (s t : State) (v : Imm), s.Inv → Answers (.rsDec d a) s .ok v t →
    ∃ w : Poly, w.length = 255 ∧ w = encodeBlock (w.take s.k.val) s.k.val ∧
      readP d t = w.take s.k.val ∧ distance (readP a s) w = v.toNat ∧ v.toNat ≤ (255 - s.k.val) / 2

/-- With a configuration and a received word of 255 symbols in p1, RS.DEC succeeds and writes the data D if and only if the staged commands all succeed, the second RS.SYN ends with Z = 1, and the first K symbols of the corrected word are D. (spec/43_decoder.md section 7) -/
def Obligations.StagedDecodeEqualsRsDec : Prop :=
  ∀ (s : State) (data : Poly), s.Inv → s.cfgv = true → (readP 1 s).length = 255 →
    ((∃ t, runOk [.rsDec 0 1] s = some t ∧ readP 0 t = data) ↔
      (∃ t, runOk stagedDecode s = some t ∧ t.z = true ∧ (readP 6 t).take s.k.val = data))

/-- In every state that satisfies the invariant with CFGV = 1, for every data block of K symbols and every received word that differs from its codeword in v <= floor((255-K)/2) elements, RS.DEC succeeds, writes the data, sets NERR and the response data to v and Z to 1 exactly when v = 0, and changes nothing else. (R214) -/
def Obligations.RsDecCorrectsUpToT : Prop :=
  ∀ (d a : PReg) (s : State) (data : Poly) (v : Nat), s.Inv → s.cfgv = true → data.length = s.k.val →
    (readP a s).length = 255 → distance (readP a s) (encodeBlock data s.k.val) = v → v ≤ (255 - s.k.val) / 2 →
    decodeBlock (readP a s) s.k.val = some (data, v) ∧
    exec (.rsDec d a) s =
      .next (respond .ok (BitVec.ofNat 16 v) { writeP d data s with z := decide (v = 0), nerr := Fin.ofNat 128 v })
end

