-- ==== Sys2Proof/Laws/Encoding.lean ====
section
/-! SUPPORT. The fields of an encoded word are the fields it was made of, and a specifier decodes to its register. -/

namespace Sys2Proof

@[simp] theorem opField_wordR (op : BitVec 8) (d a b c : BitVec 4) : opField (wordR op d a b c) = op := by
  apply BitVec.eq_of_getLsbD_eq; intro i hi; simp [opField, wordR]; grind

@[simp] theorem dField_wordR (op : BitVec 8) (d a b c : BitVec 4) : dField (wordR op d a b c) = d := by
  apply BitVec.eq_of_getLsbD_eq; intro i hi; simp [dField, wordR]; grind

@[simp] theorem aField_wordR (op : BitVec 8) (d a b c : BitVec 4) : aField (wordR op d a b c) = a := by
  apply BitVec.eq_of_getLsbD_eq; intro i hi; simp [aField, wordR]; grind

@[simp] theorem bField_wordR (op : BitVec 8) (d a b c : BitVec 4) : bField (wordR op d a b c) = b := by
  apply BitVec.eq_of_getLsbD_eq; intro i hi; simp [bField, wordR]; grind

@[simp] theorem cField_wordR (op : BitVec 8) (d a b c : BitVec 4) : cField (wordR op d a b c) = c := by
  apply BitVec.eq_of_getLsbD_eq; intro i hi; simp [cField, wordR]; grind

@[simp] theorem lowField_wordR (op : BitVec 8) (d a b c : BitVec 4) : lowField (wordR op d a b c) = 0#8 := by
  apply BitVec.eq_of_getLsbD_eq; intro i hi; simp [lowField, wordR]; grind

@[simp] theorem opField_wordI (op : BitVec 8) (d a : BitVec 4) (imm : Imm) : opField (wordI op d a imm) = op := by
  apply BitVec.eq_of_getLsbD_eq; intro i hi; simp [opField, wordI]; grind

@[simp] theorem dField_wordI (op : BitVec 8) (d a : BitVec 4) (imm : Imm) : dField (wordI op d a imm) = d := by
  apply BitVec.eq_of_getLsbD_eq; intro i hi; simp [dField, wordI]; grind

@[simp] theorem aField_wordI (op : BitVec 8) (d a : BitVec 4) (imm : Imm) : aField (wordI op d a imm) = a := by
  apply BitVec.eq_of_getLsbD_eq; intro i hi; simp [aField, wordI]; grind

@[simp] theorem immField_wordI (op : BitVec 8) (d a : BitVec 4) (imm : Imm) : immField (wordI op d a imm) = imm := by
  apply BitVec.eq_of_getLsbD_eq; intro i hi; simp [immField, wordI]; grind

@[simp] theorem opField_wordZ (op : BitVec 8) : opField (wordZ op) = op := by
  apply BitVec.eq_of_getLsbD_eq; intro i hi; simp [opField, wordZ]; grind

@[simp] theorem zField_wordZ (op : BitVec 8) : zField (wordZ op) = 0#24 := by
  apply BitVec.eq_of_getLsbD_eq; intro i hi; simp [zField, wordZ]; grind

@[simp] theorem symReg_specS (r : SReg) : symReg (specS r) = r := rfl

@[simp] theorem polyReg_specP (r : PReg) : polyReg (specP r) = .ok r := by
  revert r; decide

@[simp] theorem mustBeZero_zero {n : Nat} : mustBeZero (0#n) = .ok () := by simp [mustBeZero]

/-- A must-be-zero field that is not zero is refused by name (R83). -/
theorem mustBeZero_ne {n : Nat} {x : BitVec n} (h : x ≠ 0#n) : mustBeZero x = .error .nonZeroField := by
  simp [mustBeZero, h]

/-- A word is put together again from its fields. -/
theorem wordI_fields (w : Word) : wordI (opField w) (dField w) (aField w) (immField w) = w := by
  apply BitVec.eq_of_getLsbD_eq; intro i hi
  simp [wordI, opField, dField, aField, immField]; grind

end Sys2Proof
end

