-- ==== Sys2Proof/Laws/State.lean ====
section
/-! SUPPORT. Each field after each named update of the state, and reading after writing, so that no later proof
unfolds a record update. -/

namespace Sys2Proof.Machine

/-! ### writeS -/

@[simp] theorem writeS_sreg (i : SReg) (v : Symbol) (s : State) : (writeS i v s).sreg = s.sreg.set i v := rfl
@[simp] theorem writeS_preg (i : SReg) (v : Symbol) (s : State) : (writeS i v s).preg = s.preg := rfl
@[simp] theorem writeS_k (i : SReg) (v : Symbol) (s : State) : (writeS i v s).k = s.k := rfl
@[simp] theorem writeS_cfgv (i : SReg) (v : Symbol) (s : State) : (writeS i v s).cfgv = s.cfgv := rfl
@[simp] theorem writeS_gen (i : SReg) (v : Symbol) (s : State) : (writeS i v s).gen = s.gen := rfl
@[simp] theorem writeS_z (i : SReg) (v : Symbol) (s : State) : (writeS i v s).z = s.z := rfl
@[simp] theorem writeS_nerr (i : SReg) (v : Symbol) (s : State) : (writeS i v s).nerr = s.nerr := rfl
@[simp] theorem writeS_es (i : SReg) (v : Symbol) (s : State) : (writeS i v s).es = s.es := rfl
@[simp] theorem writeS_ecause (i : SReg) (v : Symbol) (s : State) : (writeS i v s).ecause = s.ecause := rfl
@[simp] theorem writeS_cmdPort (i : SReg) (v : Symbol) (s : State) : (writeS i v s).cmdPort = s.cmdPort := rfl
@[simp] theorem writeS_respPort (i : SReg) (v : Symbol) (s : State) : (writeS i v s).respPort = s.respPort := rfl
@[simp] theorem readP_writeS (r : PReg) (i : SReg) (v : Symbol) (s : State) : readP r (writeS i v s) = readP r s := rfl

/-! ### writeP -/

@[simp] theorem writeP_sreg (i : PReg) (q : Poly) (s : State) : (writeP i q s).sreg = s.sreg := rfl
@[simp] theorem writeP_preg (i : PReg) (q : Poly) (s : State) : (writeP i q s).preg = s.preg.set i q := rfl
@[simp] theorem writeP_k (i : PReg) (q : Poly) (s : State) : (writeP i q s).k = s.k := rfl
@[simp] theorem writeP_cfgv (i : PReg) (q : Poly) (s : State) : (writeP i q s).cfgv = s.cfgv := rfl
@[simp] theorem writeP_gen (i : PReg) (q : Poly) (s : State) : (writeP i q s).gen = s.gen := rfl
@[simp] theorem writeP_z (i : PReg) (q : Poly) (s : State) : (writeP i q s).z = s.z := rfl
@[simp] theorem writeP_nerr (i : PReg) (q : Poly) (s : State) : (writeP i q s).nerr = s.nerr := rfl
@[simp] theorem writeP_es (i : PReg) (q : Poly) (s : State) : (writeP i q s).es = s.es := rfl
@[simp] theorem writeP_ecause (i : PReg) (q : Poly) (s : State) : (writeP i q s).ecause = s.ecause := rfl
@[simp] theorem writeP_cmdPort (i : PReg) (q : Poly) (s : State) : (writeP i q s).cmdPort = s.cmdPort := rfl
@[simp] theorem writeP_respPort (i : PReg) (q : Poly) (s : State) : (writeP i q s).respPort = s.respPort := rfl
@[simp] theorem readS_writeP (r : SReg) (i : PReg) (q : Poly) (s : State) : readS r (writeP i q s) = readS r s := rfl

/-! ### setZ -/

@[simp] theorem setZ_sreg (v : Bool) (s : State) : (setZ v s).sreg = s.sreg := rfl
@[simp] theorem setZ_preg (v : Bool) (s : State) : (setZ v s).preg = s.preg := rfl
@[simp] theorem setZ_k (v : Bool) (s : State) : (setZ v s).k = s.k := rfl
@[simp] theorem setZ_cfgv (v : Bool) (s : State) : (setZ v s).cfgv = s.cfgv := rfl
@[simp] theorem setZ_gen (v : Bool) (s : State) : (setZ v s).gen = s.gen := rfl
@[simp] theorem setZ_z (v : Bool) (s : State) : (setZ v s).z = v := rfl
@[simp] theorem setZ_nerr (v : Bool) (s : State) : (setZ v s).nerr = s.nerr := rfl
@[simp] theorem setZ_es (v : Bool) (s : State) : (setZ v s).es = s.es := rfl
@[simp] theorem setZ_ecause (v : Bool) (s : State) : (setZ v s).ecause = s.ecause := rfl
@[simp] theorem setZ_cmdPort (v : Bool) (s : State) : (setZ v s).cmdPort = s.cmdPort := rfl
@[simp] theorem setZ_respPort (v : Bool) (s : State) : (setZ v s).respPort = s.respPort := rfl
@[simp] theorem readS_setZ (r : SReg) (v : Bool) (s : State) : readS r (setZ v s) = readS r s := rfl
@[simp] theorem readP_setZ (r : PReg) (v : Bool) (s : State) : readP r (setZ v s) = readP r s := rfl

/-! ### setNerr -/

@[simp] theorem setNerr_sreg (n : Nat) (s : State) : (setNerr n s).sreg = s.sreg := rfl
@[simp] theorem setNerr_preg (n : Nat) (s : State) : (setNerr n s).preg = s.preg := rfl
@[simp] theorem setNerr_k (n : Nat) (s : State) : (setNerr n s).k = s.k := rfl
@[simp] theorem setNerr_cfgv (n : Nat) (s : State) : (setNerr n s).cfgv = s.cfgv := rfl
@[simp] theorem setNerr_gen (n : Nat) (s : State) : (setNerr n s).gen = s.gen := rfl
@[simp] theorem setNerr_z (n : Nat) (s : State) : (setNerr n s).z = s.z := rfl
@[simp] theorem setNerr_nerr (n : Nat) (s : State) : (setNerr n s).nerr = Fin.ofNat 128 n := rfl
@[simp] theorem setNerr_es (n : Nat) (s : State) : (setNerr n s).es = s.es := rfl
@[simp] theorem setNerr_ecause (n : Nat) (s : State) : (setNerr n s).ecause = s.ecause := rfl
@[simp] theorem setNerr_cmdPort (n : Nat) (s : State) : (setNerr n s).cmdPort = s.cmdPort := rfl
@[simp] theorem setNerr_respPort (n : Nat) (s : State) : (setNerr n s).respPort = s.respPort := rfl
@[simp] theorem readS_setNerr (r : SReg) (n : Nat) (s : State) : readS r (setNerr n s) = readS r s := rfl
@[simp] theorem readP_setNerr (r : PReg) (n : Nat) (s : State) : readP r (setNerr n s) = readP r s := rfl

/-! ### configure -/

@[simp] theorem configure_sreg (n : Nat) (s : State) : (configure n s).sreg = s.sreg := rfl
@[simp] theorem configure_preg (n : Nat) (s : State) : (configure n s).preg = s.preg := rfl
@[simp] theorem configure_k (n : Nat) (s : State) : (configure n s).k = Fin.ofNat 255 n := rfl
@[simp] theorem configure_cfgv (n : Nat) (s : State) : (configure n s).cfgv = true := rfl
@[simp] theorem configure_gen (n : Nat) (s : State) : (configure n s).gen = genpoly n := rfl
@[simp] theorem configure_z (n : Nat) (s : State) : (configure n s).z = false := rfl
@[simp] theorem configure_nerr (n : Nat) (s : State) : (configure n s).nerr = 0 := rfl
@[simp] theorem configure_es (n : Nat) (s : State) : (configure n s).es = s.es := rfl
@[simp] theorem configure_ecause (n : Nat) (s : State) : (configure n s).ecause = s.ecause := rfl
@[simp] theorem configure_cmdPort (n : Nat) (s : State) : (configure n s).cmdPort = s.cmdPort := rfl
@[simp] theorem configure_respPort (n : Nat) (s : State) : (configure n s).respPort = s.respPort := rfl
@[simp] theorem readS_configure (r : SReg) (n : Nat) (s : State) : readS r (configure n s) = readS r s := rfl
@[simp] theorem readP_configure (r : PReg) (n : Nat) (s : State) : readP r (configure n s) = readP r s := rfl

/-! ### clearFailure -/

@[simp] theorem clearFailure_sreg (s : State) : (clearFailure s).sreg = s.sreg := rfl
@[simp] theorem clearFailure_preg (s : State) : (clearFailure s).preg = s.preg := rfl
@[simp] theorem clearFailure_k (s : State) : (clearFailure s).k = s.k := rfl
@[simp] theorem clearFailure_cfgv (s : State) : (clearFailure s).cfgv = s.cfgv := rfl
@[simp] theorem clearFailure_gen (s : State) : (clearFailure s).gen = s.gen := rfl
@[simp] theorem clearFailure_z (s : State) : (clearFailure s).z = s.z := rfl
@[simp] theorem clearFailure_nerr (s : State) : (clearFailure s).nerr = s.nerr := rfl
@[simp] theorem clearFailure_es (s : State) : (clearFailure s).es = false := rfl
@[simp] theorem clearFailure_ecause (s : State) : (clearFailure s).ecause = .ok := rfl
@[simp] theorem clearFailure_cmdPort (s : State) : (clearFailure s).cmdPort = s.cmdPort := rfl
@[simp] theorem clearFailure_respPort (s : State) : (clearFailure s).respPort = s.respPort := rfl
@[simp] theorem readS_clearFailure (r : SReg) (s : State) : readS r (clearFailure s) = readS r s := rfl
@[simp] theorem readP_clearFailure (r : PReg) (s : State) : readP r (clearFailure s) = readP r s := rfl

/-! ### respond -/

@[simp] theorem respond_sreg (c : Cause) (v : Imm) (s : State) : (respond c v s).sreg = s.sreg := rfl
@[simp] theorem respond_preg (c : Cause) (v : Imm) (s : State) : (respond c v s).preg = s.preg := rfl
@[simp] theorem respond_k (c : Cause) (v : Imm) (s : State) : (respond c v s).k = s.k := rfl
@[simp] theorem respond_cfgv (c : Cause) (v : Imm) (s : State) : (respond c v s).cfgv = s.cfgv := rfl
@[simp] theorem respond_gen (c : Cause) (v : Imm) (s : State) : (respond c v s).gen = s.gen := rfl
@[simp] theorem respond_z (c : Cause) (v : Imm) (s : State) : (respond c v s).z = s.z := rfl
@[simp] theorem respond_nerr (c : Cause) (v : Imm) (s : State) : (respond c v s).nerr = s.nerr := rfl
@[simp] theorem respond_es (c : Cause) (v : Imm) (s : State) : (respond c v s).es = s.es := rfl
@[simp] theorem respond_ecause (c : Cause) (v : Imm) (s : State) : (respond c v s).ecause = s.ecause := rfl
@[simp] theorem respond_cmdPort (c : Cause) (v : Imm) (s : State) : (respond c v s).cmdPort = s.cmdPort := rfl
@[simp] theorem respond_respPort (c : Cause) (v : Imm) (s : State) : (respond c v s).respPort = s.respPort ++ [responseWord c v] := rfl
@[simp] theorem readS_respond (r : SReg) (c : Cause) (v : Imm) (s : State) : readS r (respond c v s) = readS r s := rfl
@[simp] theorem readP_respond (r : PReg) (c : Cause) (v : Imm) (s : State) : readP r (respond c v s) = readP r s := rfl

/-! ### present -/

@[simp] theorem present_sreg (w : Word) (s : State) : (present w s).sreg = s.sreg := rfl
@[simp] theorem present_preg (w : Word) (s : State) : (present w s).preg = s.preg := rfl
@[simp] theorem present_k (w : Word) (s : State) : (present w s).k = s.k := rfl
@[simp] theorem present_cfgv (w : Word) (s : State) : (present w s).cfgv = s.cfgv := rfl
@[simp] theorem present_gen (w : Word) (s : State) : (present w s).gen = s.gen := rfl
@[simp] theorem present_z (w : Word) (s : State) : (present w s).z = s.z := rfl
@[simp] theorem present_nerr (w : Word) (s : State) : (present w s).nerr = s.nerr := rfl
@[simp] theorem present_es (w : Word) (s : State) : (present w s).es = s.es := rfl
@[simp] theorem present_ecause (w : Word) (s : State) : (present w s).ecause = s.ecause := rfl
@[simp] theorem present_cmdPort (w : Word) (s : State) : (present w s).cmdPort = w :: s.cmdPort := rfl
@[simp] theorem present_respPort (w : Word) (s : State) : (present w s).respPort = s.respPort := rfl
@[simp] theorem readS_present (r : SReg) (w : Word) (s : State) : readS r (present w s) = readS r s := rfl
@[simp] theorem readP_present (r : PReg) (w : Word) (s : State) : readP r (present w s) = readP r s := rfl

/-! ### recordFailure -/

@[simp] theorem recordFailure_sreg (c : Cause) (s : State) : (recordFailure c s).sreg = s.sreg := by
  unfold recordFailure
  split <;> rfl
@[simp] theorem recordFailure_preg (c : Cause) (s : State) : (recordFailure c s).preg = s.preg := by
  unfold recordFailure
  split <;> rfl
@[simp] theorem recordFailure_k (c : Cause) (s : State) : (recordFailure c s).k = s.k := by
  unfold recordFailure
  split <;> rfl
@[simp] theorem recordFailure_cfgv (c : Cause) (s : State) : (recordFailure c s).cfgv = s.cfgv := by
  unfold recordFailure
  split <;> rfl
@[simp] theorem recordFailure_gen (c : Cause) (s : State) : (recordFailure c s).gen = s.gen := by
  unfold recordFailure
  split <;> rfl
@[simp] theorem recordFailure_z (c : Cause) (s : State) : (recordFailure c s).z = s.z := by
  unfold recordFailure
  split <;> rfl
@[simp] theorem recordFailure_nerr (c : Cause) (s : State) : (recordFailure c s).nerr = s.nerr := by
  unfold recordFailure
  split <;> rfl
@[simp] theorem recordFailure_es (c : Cause) (s : State) : (recordFailure c s).es = true := by
  unfold recordFailure
  split <;> simp_all
@[simp] theorem recordFailure_ecause (c : Cause) (s : State) :
    (recordFailure c s).ecause = if s.es then s.ecause else c := by
  unfold recordFailure
  split <;> rfl
@[simp] theorem recordFailure_cmdPort (c : Cause) (s : State) : (recordFailure c s).cmdPort = s.cmdPort := by
  unfold recordFailure
  split <;> rfl
@[simp] theorem recordFailure_respPort (c : Cause) (s : State) : (recordFailure c s).respPort = s.respPort := by
  unfold recordFailure
  split <;> rfl
@[simp] theorem readS_recordFailure (r : SReg) (c : Cause) (s : State) : readS r (recordFailure c s) = readS r s := by
  simp [readS]
@[simp] theorem readP_recordFailure (r : PReg) (c : Cause) (s : State) : readP r (recordFailure c s) = readP r s := by
  simp [readP]

/-! ### Reading after writing -/

@[simp] theorem readS_writeS_same (i : SReg) (v : Symbol) (s : State) : readS i (writeS i v s) = v := by
  simp [readS]

theorem readS_writeS_ne {r i : SReg} (h : r ≠ i) (v : Symbol) (s : State) : readS r (writeS i v s) = readS r s := by
  simp only [readS, writeS_sreg, Fin.getElem_fin]
  exact Vector.getElem_set_ne _ _ (fun e => h (Fin.ext e.symm))

@[simp] theorem readP_writeP_same (i : PReg) (q : Poly) (s : State) : readP i (writeP i q s) = q := by
  simp [readP]

theorem readP_writeP_ne {r i : PReg} (h : r ≠ i) (q : Poly) (s : State) : readP r (writeP i q s) = readP r s := by
  simp only [readP, writeP_preg, Fin.getElem_fin]
  exact Vector.getElem_set_ne _ _ (fun e => h (Fin.ext e.symm))

theorem readS_writeS (r i : SReg) (v : Symbol) (s : State) :
    readS r (writeS i v s) = if r = i then v else readS r s := by
  split
  · next h => subst h; simp
  · next h => exact readS_writeS_ne h v s

theorem readP_writeP (r i : PReg) (q : Poly) (s : State) :
    readP r (writeP i q s) = if r = i then q else readP r s := by
  split
  · next h => subst h; simp
  · next h => exact readP_writeP_ne h q s

/-- Two states are equal when every field is. -/
theorem State.ext_fields {s t : State} (h1 : s.sreg = t.sreg) (h2 : s.preg = t.preg) (h3 : s.k = t.k)
    (h4 : s.cfgv = t.cfgv) (h5 : s.gen = t.gen) (h6 : s.z = t.z) (h7 : s.nerr = t.nerr) (h8 : s.es = t.es)
    (h9 : s.ecause = t.ecause) (h10 : s.cmdPort = t.cmdPort) (h11 : s.respPort = t.respPort) : s = t := by
  cases s
  cases t
  simp_all

/-! ### The reset state -/

@[simp] theorem readS_reset (r : SReg) : readS r State.reset = 0#8 := by simp [readS, State.reset]
@[simp] theorem readP_reset (r : PReg) : readP r State.reset = [] := by simp [readP, State.reset]

/-! ### The canonical form of the polynomial registers -/

theorem reset_pregWf : State.reset.pregWf := fun r => by simp

theorem writeP_pregWf {s : State} (h : s.pregWf) (i : PReg) {q : Poly} (hq : q.length ≤ 512) :
    (writeP i q s).pregWf := by
  intro r
  rw [readP_writeP]
  split
  · exact hq
  · exact h r

/-- An operation that leaves every polynomial register as it was keeps the canonical form. -/
theorem pregWf_of_preg_eq {s t : State} (h : s.pregWf) (e : t.preg = s.preg) : t.pregWf := by
  intro r
  have := h r
  simp only [readP, e] at this ⊢
  exact this

end Sys2Proof.Machine
end

