-- ==== Sys2Proof/Laws/Ops.lean ====
section
/-! SUPPORT. What each shared operation can do, said once: how a command ends, how a word is taken, what a step does. -/

namespace Sys2Proof.Machine

/-- `done` goes on, answers cause 0 and the data, and changes nothing else. -/
theorem done_eq (v : Imm) (s : State) : done v s = .next (respond .ok v s) := rfl

/-- `raise` goes on, answers the cause and data 0, records the first cause, and changes nothing else. -/
theorem raise_eq (c : Cause) (s : State) : raise c s = .next (respond c 0#16 (recordFailure c s)) := rfl

theorem next_of_done {v : Imm} {s t : State} (h : done v s = .next t) : t = respond .ok v s := by
  cases h
  rfl

theorem next_of_raise {c : Cause} {s t : State} (h : raise c s = .next t) :
    t = respond c 0#16 (recordFailure c s) := by
  cases h
  rfl

@[simp] theorem recordFailure_of_es {c : Cause} {s : State} (h : s.es = true) : recordFailure c s = s := by
  simp [recordFailure, h]

theorem recordFailure_of_not_es {c : Cause} {s : State} (h : s.es = false) :
    recordFailure c s = { s with es := true, ecause := c } := by
  simp [recordFailure, h]

/-- The three fields of a response word (R76). -/
theorem responseWord_fields (c : Cause) (v : Imm) :
    (responseWord c v).extractLsb' 24 8 = causeCode c ∧ (responseWord c v).extractLsb' 16 8 = 0#8 ∧
      (responseWord c v).extractLsb' 0 16 = v := by
  refine ⟨?_, ?_, ?_⟩ <;>
    (apply BitVec.eq_of_getLsbD_eq; intro i hi; simp [responseWord]; grind)

theorem causeCode_inj {c d : Cause} (h : causeCode c = causeCode d) : c = d := by
  cases c <;> cases d <;> first | rfl | (exact absurd h (by decide))

theorem takeCommand_nil {s : State} (h : s.cmdPort = []) : takeCommand s = none := by
  simp [takeCommand, h]

theorem takeCommand_cons {s : State} {w : Word} {rest : List Word} (h : s.cmdPort = w :: rest) :
    takeCommand s = some (w, { s with cmdPort := rest }) := by
  simp [takeCommand, h]

/-- Everything a step can do: it idles, runs the decoded command, or answers E_ILLEGAL. -/
theorem step_cases {s t : State} (h : step s = .next t) :
    (s.cmdPort = [] ∧ t = s) ∨
    (∃ w rest i, s.cmdPort = w :: rest ∧ decode w = .ok i ∧ exec i { s with cmdPort := rest } = .next t) ∨
    (∃ w rest e, s.cmdPort = w :: rest ∧ decode w = .error e ∧
      t = respond .illegal 0#16 (recordFailure .illegal { s with cmdPort := rest })) := by
  unfold step at h
  cases hp : s.cmdPort with
  | nil =>
    rw [takeCommand_nil hp] at h
    simp only at h
    cases h
    exact .inl ⟨rfl, rfl⟩
  | cons w rest =>
    rw [takeCommand_cons hp] at h
    simp only at h
    cases hd : decode w with
    | ok i =>
      rw [hd] at h
      exact .inr (.inl ⟨w, rest, i, rfl, hd, h⟩)
    | error e =>
      rw [hd] at h
      cases h
      exact .inr (.inr ⟨w, rest, e, rfl, hd, rfl⟩)

end Sys2Proof.Machine
end

