-- ==== Sys2Proof/Laws/Exec.lean ====
section
/-! SUPPORT. Everything a command can do, said once for all commands: it fails by the shared operation `raise` with a cause
it may raise, or it succeeds by `done` on a state that differs from the old one only in what the command may write. -/

namespace Sys2Proof.Machine

/-- What a successful command leaves as it was, in `t` against `s`. -/
structure Untouched (i : Instr) (s t : State) : Prop where
  cmdPort : t.cmdPort = s.cmdPort
  respPort : t.respPort = s.respPort
  error : i ≠ .clrErr → t.es = s.es ∧ t.ecause = s.ecause
  z : writesZ i = false → t.z = s.z
  nerr : writesNerr i = false → t.nerr = s.nerr
  config : isCfg i = false → t.k = s.k ∧ t.cfgv = s.cfgv ∧ t.gen = s.gen
  symbols : ∀ r, destS i ≠ some r → readS r t = readS r s
  polys : ∀ r, r ∉ destP i → readP r t = readP r s

theorem readCsr_none {n : Imm} {s : State} (h : readCsr n s = none) : ¬ n ≤ 4#16 := by
  intro hn
  have h4 : n.toNat ≤ 4 := hn
  unfold readCsr at h
  split at h <;> first | (cases h; done) | grind

/-- The inversion of `exec`. -/
theorem exec_cases (i : Instr) (s : State) :
    (∃ c, c ≠ .ok ∧ mayRaise c i = true ∧ exec i s = raise c s) ∨
    (∃ v t, exec i s = done v t ∧ (returnsData i = false → v = 0#16) ∧ Untouched i s t) := by
  cases i <;>
    simp only [exec, execNop, execCsrRd, execClrErr, execSLi, execSGet, execGfAdd, execGfSub, execGfMul, execGfDiv,
      execGfPow, execGfInv, execPClr, execPPush, execPGet, execPLen, execPPadz, execPAdd, execPSub, execPMul, execPDiv,
      execPMod, execPEval, execRsCfg, execRsGen, execRsEnc, execRsSyn, execRsBm, execRsChien, execRsForney, execRsFix,
      execRsDec]
  all_goals (repeat' split)
  all_goals first
    | (refine .inl ⟨_, ?_, ?_, rfl⟩ <;> simp [mayRaise]; done)
    | (refine .inr ⟨_, _, rfl, ?_, rfl, rfl, ?_, ?_, ?_, ?_, ?_, ?_⟩ <;>
        simp +contextual [returnsData, writesZ, writesNerr, isCfg, destS, destP, readS_writeS, readP_writeP] <;>
        (intros; simp_all))
    | skip
  case h_1 h => exact .inl ⟨.illegal, by decide, by simp [mayRaise, wellFormed, readCsr_none h], rfl⟩
  case pDiv.isTrue h => exact .inl ⟨.illegal, by decide, by simp [mayRaise, wellFormed, h], rfl⟩

end Sys2Proof.Machine
end

