-- ==== Sys2Proof/Laws/Lengths.lean ====
section
/-! SUPPORT. The length of every result (spec/41_polynomial.md R137, spec/42_encoder.md R160, R165, spec/43_decoder.md R182 to
R210), one lemma per function. -/

namespace Sys2Proof.Machine

@[simp] theorem scale_length (c : Symbol) (p : Poly) : (scale c p).length = p.length := by simp [scale]

@[simp] theorem xorPrefix_length (w v : Poly) : (xorPrefix w v).length = w.length := by
  induction w generalizing v with
  | nil => cases v <;> rfl
  | cons x w ih => cases v <;> simp [xorPrefix, ih]

theorem padLeft_length (n : Nat) (p : Poly) (h : p.length ≤ n) : (padLeft n p).length = n := by
  simp [padLeft]; omega

@[simp] theorem polyAdd_length (a b : Poly) : (polyAdd a b).length = max a.length b.length := by
  simp [polyAdd, padLeft_length]

@[simp] theorem polySub_length (a b : Poly) : (polySub a b).length = max a.length b.length := polyAdd_length a b

theorem polyMulRows_length (a b : Poly) (hb : b.length ≠ 0) : (polyMulRows a b).length = a.length + b.length - 1 := by
  induction a with
  | nil => simp [polyMulRows]
  | cons x a ih => simp [polyMulRows, ih]; omega

theorem polyMul_length (a b : Poly) :
    (polyMul a b).length = if a.length = 0 ∨ b.length = 0 then 0 else a.length + b.length - 1 := by
  unfold polyMul
  split
  · rfl
  · next h => exact polyMulRows_length a b (fun e => h (.inr e))

theorem polyDivLoop_length (b : Poly) (nq : Nat) (w : Poly) (h : nq ≤ w.length) :
    (polyDivLoop b nq w).1.length = nq ∧ (polyDivLoop b nq w).2.length = w.length - nq := by
  induction nq generalizing w with
  | zero => simp [polyDivLoop]
  | succ n ih =>
    cases w with
    | nil => simp at h
    | cons x w =>
      have := ih (xorPrefix w (scale (gfQuot x (b.headD 0#8)) b.tail)) (by simp at h ⊢; omega)
      simp at this
      simp [polyDivLoop, this]

theorem polyLongDiv_length (a b : Poly) (hb : b.length ≠ 0) :
    (polyLongDiv a b).1.length = (if a.length < b.length then 0 else a.length - b.length + 1) ∧
    (polyLongDiv a b).2.length = (if a.length < b.length then a.length else b.length - 1) := by
  unfold polyLongDiv
  split
  · exact ⟨rfl, rfl⟩
  · have := polyDivLoop_length b (a.length - b.length + 1) a (by omega)
    exact ⟨this.1, by omega⟩

/-- Neither result is longer than the dividend. -/
theorem polyLongDiv_length_le (a b : Poly) (hb : b.length ≠ 0) :
    (polyLongDiv a b).1.length ≤ a.length ∧ (polyLongDiv a b).2.length ≤ a.length := by
  have := polyLongDiv_length a b hb
  split at this <;> omega

theorem length_ne_zero_of_not_badDivisor {b : Poly} (h : badDivisor b = false) : b.length ≠ 0 := by
  intro e
  rw [List.length_eq_zero_iff] at e
  subst e
  exact absurd h (by decide)

theorem polyDivmod_some {a b : Poly} {qr : Poly × Poly} (h : polyDivmod a b = some qr) :
    badDivisor b = false ∧ qr = polyLongDiv a b := by
  unfold polyDivmod at h
  split at h
  · cases h
  · next hb => exact ⟨by simpa using hb, by simpa using h.symm⟩

/-! ## Encoder -/

theorem genpoly_length (k : Nat) : (genpoly k).length = 255 - k + 1 := by
  unfold genpoly
  generalize 255 - k = n
  show (List.foldl _ [1#8] (List.range n)).length = n + 1
  induction n with
  | zero => rfl
  | succ n ih =>
    rw [List.range_succ, List.foldl_append]
    simp only [List.foldl_cons, List.foldl_nil, polyMul_length, ih]
    simp

theorem encodeWith_length {gen data : Poly} (hg : gen.length = 255 - data.length + 1) (hk : 1 ≤ data.length)
    (hn : data.length ≤ 255) : (encodeWith gen data).length = 255 := by
  have h := (polyLongDiv_length (data ++ zeros (255 - data.length)) gen (by omega)).2
  simp only [List.length_append, List.length_replicate] at h
  simp only [encodeWith, List.length_append, Config.n]
  rw [h]
  split <;> omega

/-! ## Decoder -/

@[simp] theorem syndromes_length (r : Poly) (m : Nat) : (syndromes r m).length = m := by simp [syndromes]

theorem bm_length {S lam : Poly} (h : bm S = some lam) : 1 ≤ lam.length ∧ lam.length ≤ S.length / 2 + 1 := by
  simp only [bm] at h
  split at h
  · cases h
  · cases h
    simp
    omega

theorem chien_length {lam pos : Poly} (h : chien lam = some pos) : pos.length + 1 = lam.length := by
  simp only [chien] at h
  split at h
  · next e => cases h; exact e
  · cases h

theorem rootPositions_length_le (lam : Poly) : (rootPositions lam).length ≤ 255 := by
  simp only [rootPositions, List.length_map]
  exact (List.length_filter_le _ _).trans (by simp)

theorem chien_length_le {lam pos : Poly} (h : chien lam = some pos) : pos.length ≤ 255 := by
  simp only [chien] at h
  split at h
  · cases h; exact rootPositions_length_le lam
  · cases h

theorem forney_length {S lam pos mag : Poly} (h : forney S lam pos = some mag) : mag.length = pos.length := by
  induction pos generalizing mag with
  | nil => cases h; rfl
  | cons j pos ih =>
    simp only [forney] at h
    split at h
    · next e m _ hm => cases h; simp [ih hm]
    · cases h

@[simp] theorem fixOne_length (w : Poly) (je : Symbol × Symbol) : (fixOne w je).length = w.length := by simp [fixOne]

@[simp] theorem fix_length (r pos mag : Poly) : (fix r pos mag).length = r.length := by
  unfold fix
  generalize pos.zip mag = l
  induction l generalizing r with
  | nil => rfl
  | cons je l ih => simp [ih]

theorem correctWord_length {r S : Poly} {wc : Poly × Nat} (h : correctWord r S = some wc) :
    wc.1.length = r.length ∧ wc.2 ≤ S.length / 2 := by
  simp only [correctWord] at h
  split at h
  · cases h
  next lam hl =>
  split at h
  · cases h
  next pos hp =>
  split at h
  · cases h
  next mag hm =>
  split at h
  · cases h
    have h1 := bm_length hl
    have h2 := chien_length hp
    exact ⟨by simp, by simp; omega⟩
  · cases h

theorem decodeBlock_length {r : Poly} {k : Nat} {dc : Poly × Nat} (h : decodeBlock r k = some dc) :
    dc.1.length = min k r.length ∧ dc.2 ≤ (255 - k) / 2 := by
  simp only [decodeBlock] at h
  split at h
  · cases h; simp
  · split at h
    · cases h
    next wc hw =>
    have := correctWord_length hw
    cases h
    simp at this ⊢
    exact ⟨by rw [this.1], this.2⟩

end Sys2Proof.Machine
end

