-- ==== Sys2Proof/Laws/PerInstr.lean ====
section
/-! SUPPORT. The family OpcodeRow: the encoded word of a command has the fixed bits of its row of the opcode map. -/

namespace Sys2Proof.Laws.OpcodeRow

/-- The word of `i`, under the mask of its row of spec/opcode_table.json, is the row's match. -/
def Statement (i : Instr) : Prop := encode i &&& (opcodeRow i).2 = (opcodeRow i).1

theorem wordR_and (op mo ml : BitVec 8) (d a b c md ma mb mc : BitVec 4) :
    wordR op d a b c &&& ((mo ++ md ++ ma ++ mb ++ mc ++ ml : BitVec 32)) =
      (op &&& mo) ++ (d &&& md) ++ (a &&& ma) ++ (b &&& mb) ++ (c &&& mc) ++ 0#8 := by
  apply BitVec.eq_of_getLsbD_eq; intro i hi
  simp [wordR]; grind

theorem wordI_and (op mo : BitVec 8) (d a md ma : BitVec 4) (imm mi : Imm) :
    wordI op d a imm &&& ((mo ++ md ++ ma ++ mi : BitVec 32)) =
      (op &&& mo) ++ (d &&& md) ++ (a &&& ma) ++ (imm &&& mi) := by
  apply BitVec.eq_of_getLsbD_eq; intro i hi
  simp [wordI]; grind

/-- A polynomial register's specifier has bit 3 clear. -/
@[simp] theorem specP_and_8 (r : PReg) : specP r &&& 8#4 = 0#4 := by
  revert r; decide

theorem nop : Statement (.nop) := by rfl

theorem csrRd (num : Imm) : Statement (.csrRd num) := by
  exact (wordI_and _ 0xFF#8 _ _ 15#4 15#4 _ 0#16).trans (by simp [opcodeRow, rowIndex, opcodeRows])

theorem clrErr : Statement (.clrErr) := by rfl

theorem sLi (d : SReg) (imm : Imm) : Statement (.sLi d imm) := by
  exact (wordI_and _ 0xFF#8 _ _ 0#4 15#4 _ 0#16).trans (by simp [opcodeRow, rowIndex, opcodeRows])

theorem sGet (a : SReg) : Statement (.sGet a) := by
  exact (wordR_and _ 0xFF#8 255#8 _ _ _ _ 15#4 0#4 15#4 15#4).trans (by simp [opcodeRow, rowIndex, opcodeRows])

theorem gfAdd (d a b : SReg) : Statement (.gfAdd d a b) := by
  exact (wordR_and _ 0xFF#8 255#8 _ _ _ _ 0#4 0#4 0#4 15#4).trans (by simp [opcodeRow, rowIndex, opcodeRows])

theorem gfSub (d a b : SReg) : Statement (.gfSub d a b) := by
  exact (wordR_and _ 0xFF#8 255#8 _ _ _ _ 0#4 0#4 0#4 15#4).trans (by simp [opcodeRow, rowIndex, opcodeRows])

theorem gfMul (d a b : SReg) : Statement (.gfMul d a b) := by
  exact (wordR_and _ 0xFF#8 255#8 _ _ _ _ 0#4 0#4 0#4 15#4).trans (by simp [opcodeRow, rowIndex, opcodeRows])

theorem gfDiv (d a b : SReg) : Statement (.gfDiv d a b) := by
  exact (wordR_and _ 0xFF#8 255#8 _ _ _ _ 0#4 0#4 0#4 15#4).trans (by simp [opcodeRow, rowIndex, opcodeRows])

theorem gfPow (d a : SReg) (e : Imm) : Statement (.gfPow d a e) := by
  exact (wordI_and _ 0xFF#8 _ _ 0#4 0#4 _ 0#16).trans (by simp [opcodeRow, rowIndex, opcodeRows])

theorem gfInv (d a : SReg) : Statement (.gfInv d a) := by
  exact (wordR_and _ 0xFF#8 255#8 _ _ _ _ 0#4 0#4 15#4 15#4).trans (by simp [opcodeRow, rowIndex, opcodeRows])

theorem pClr (d : PReg) : Statement (.pClr d) := by
  exact (wordR_and _ 0xFF#8 255#8 _ _ _ _ 8#4 15#4 15#4 15#4).trans (by simp [opcodeRow, rowIndex, opcodeRows])

theorem pPush (d : PReg) (imm : Imm) : Statement (.pPush d imm) := by
  exact (wordI_and _ 0xFF#8 _ _ 8#4 15#4 _ 0#16).trans (by simp [opcodeRow, rowIndex, opcodeRows])

theorem pGet (a : PReg) (idx : Imm) : Statement (.pGet a idx) := by
  exact (wordI_and _ 0xFF#8 _ _ 15#4 8#4 _ 0#16).trans (by simp [opcodeRow, rowIndex, opcodeRows])

theorem pLen (a : PReg) : Statement (.pLen a) := by
  exact (wordR_and _ 0xFF#8 255#8 _ _ _ _ 15#4 8#4 15#4 15#4).trans (by simp [opcodeRow, rowIndex, opcodeRows])

theorem pPadz (d : PReg) (len : Imm) : Statement (.pPadz d len) := by
  exact (wordI_and _ 0xFF#8 _ _ 8#4 15#4 _ 0#16).trans (by simp [opcodeRow, rowIndex, opcodeRows])

theorem pAdd (d a b : PReg) : Statement (.pAdd d a b) := by
  exact (wordR_and _ 0xFF#8 255#8 _ _ _ _ 8#4 8#4 8#4 15#4).trans (by simp [opcodeRow, rowIndex, opcodeRows])

theorem pSub (d a b : PReg) : Statement (.pSub d a b) := by
  exact (wordR_and _ 0xFF#8 255#8 _ _ _ _ 8#4 8#4 8#4 15#4).trans (by simp [opcodeRow, rowIndex, opcodeRows])

theorem pMul (d a b : PReg) : Statement (.pMul d a b) := by
  exact (wordR_and _ 0xFF#8 255#8 _ _ _ _ 8#4 8#4 8#4 15#4).trans (by simp [opcodeRow, rowIndex, opcodeRows])

theorem pDiv (d a b c : PReg) : Statement (.pDiv d a b c) := by
  exact (wordR_and _ 0xFF#8 255#8 _ _ _ _ 8#4 8#4 8#4 8#4).trans (by simp [opcodeRow, rowIndex, opcodeRows])

theorem pMod (d a b : PReg) : Statement (.pMod d a b) := by
  exact (wordR_and _ 0xFF#8 255#8 _ _ _ _ 8#4 8#4 8#4 15#4).trans (by simp [opcodeRow, rowIndex, opcodeRows])

theorem pEval (d : SReg) (a : PReg) (b : SReg) : Statement (.pEval d a b) := by
  exact (wordR_and _ 0xFF#8 255#8 _ _ _ _ 0#4 8#4 0#4 15#4).trans (by simp [opcodeRow, rowIndex, opcodeRows])

theorem rsCfg (k : Imm) : Statement (.rsCfg k) := by
  exact (wordI_and _ 0xFF#8 _ _ 15#4 15#4 _ 0#16).trans (by simp [opcodeRow, rowIndex, opcodeRows])

theorem rsGen (d : PReg) : Statement (.rsGen d) := by
  exact (wordR_and _ 0xFF#8 255#8 _ _ _ _ 8#4 15#4 15#4 15#4).trans (by simp [opcodeRow, rowIndex, opcodeRows])

theorem rsEnc (d a : PReg) : Statement (.rsEnc d a) := by
  exact (wordR_and _ 0xFF#8 255#8 _ _ _ _ 8#4 8#4 15#4 15#4).trans (by simp [opcodeRow, rowIndex, opcodeRows])

theorem rsSyn (d a : PReg) : Statement (.rsSyn d a) := by
  exact (wordR_and _ 0xFF#8 255#8 _ _ _ _ 8#4 8#4 15#4 15#4).trans (by simp [opcodeRow, rowIndex, opcodeRows])

theorem rsBm (d a : PReg) : Statement (.rsBm d a) := by
  exact (wordR_and _ 0xFF#8 255#8 _ _ _ _ 8#4 8#4 15#4 15#4).trans (by simp [opcodeRow, rowIndex, opcodeRows])

theorem rsChien (d a : PReg) : Statement (.rsChien d a) := by
  exact (wordR_and _ 0xFF#8 255#8 _ _ _ _ 8#4 8#4 15#4 15#4).trans (by simp [opcodeRow, rowIndex, opcodeRows])

theorem rsForney (d a b c : PReg) : Statement (.rsForney d a b c) := by
  exact (wordR_and _ 0xFF#8 255#8 _ _ _ _ 8#4 8#4 8#4 8#4).trans (by simp [opcodeRow, rowIndex, opcodeRows])

theorem rsFix (d a b c : PReg) : Statement (.rsFix d a b c) := by
  exact (wordR_and _ 0xFF#8 255#8 _ _ _ _ 8#4 8#4 8#4 8#4).trans (by simp [opcodeRow, rowIndex, opcodeRows])

theorem rsDec (d a : PReg) : Statement (.rsDec d a) := by
  exact (wordR_and _ 0xFF#8 255#8 _ _ _ _ 8#4 8#4 15#4 15#4).trans (by simp [opcodeRow, rowIndex, opcodeRows])

end Sys2Proof.Laws.OpcodeRow
end

