-- ==== Sys2Proof/Tests/Slice0.lean ====
section
/-! SUPPORT. Tests of the model on values the spec prints or that follow from them by hand, one step each; a smoke test of
each check of `wellFormed`; and, for every statement with hypotheses, a state and operands that meet them. -/

namespace Sys2Proof.Tests

open Sys2Proof Sys2Proof.Machine

/-! ## WellFormed: an ill-formed term for each check -/

theorem test_wellFormed_csr : wellFormed (.csrRd 5) = false ∧ wellFormed (.csrRd 4) = true := by decide
theorem test_wellFormed_pDiv : wellFormed (.pDiv 2 0 1 2) = false ∧ wellFormed (.pDiv 2 0 1 3) = true := by decide

/-! ## Decoding: a word of every constructor, written out from R72, R80 and R81 (the words are those of 95_test_vectors.md) -/

theorem test_decode_system :
    decode 0x00000000#32 = .ok .nop ∧ decode 0x01000002#32 = .ok (.csrRd 2) ∧ decode 0x02000000#32 = .ok .clrErr := by
  decide

theorem test_decode_transfer :
    decode 0x10100057#32 = .ok (.sLi 1 0x57) ∧ decode 0x11030000#32 = .ok (.sGet 3) ∧
    decode 0x30200000#32 = .ok (.pClr 2) ∧ decode 0x31100005#32 = .ok (.pPush 1 5) ∧
    decode 0x320100FE#32 = .ok (.pGet 1 254) ∧ decode 0x33030000#32 = .ok (.pLen 3) ∧
    decode 0x340000DF#32 = .ok (.pPadz 0 223) := by
  decide

theorem test_decode_field :
    decode 0x20312000#32 = .ok (.gfAdd 3 1 2) ∧ decode 0x21988000#32 = .ok (.gfSub 9 8 8) ∧
    decode 0x22762000#32 = .ok (.gfMul 7 6 2) ∧ decode 0x23539000#32 = .ok (.gfDiv 5 3 9) ∧
    decode 0x248100FE#32 = .ok (.gfPow 8 1 254) ∧ decode 0x25620000#32 = .ok (.gfInv 6 2) := by
  decide

theorem test_decode_polynomial :
    decode 0x40312000#32 = .ok (.pAdd 3 1 2) ∧ decode 0x41302000#32 = .ok (.pSub 3 0 2) ∧
    decode 0x42204000#32 = .ok (.pMul 2 0 4) ∧ decode 0x43201300#32 = .ok (.pDiv 2 0 1 3) ∧
    decode 0x44214000#32 = .ok (.pMod 2 1 4) ∧ decode 0x45241000#32 = .ok (.pEval 2 4 1) := by
  decide

theorem test_decode_encoder :
    decode 0x500000DF#32 = .ok (.rsCfg 223) ∧ decode 0x51300000#32 = .ok (.rsGen 3) ∧
    decode 0x52100000#32 = .ok (.rsEnc 1 0) := by
  decide

theorem test_decode_decoder :
    decode 0x60210000#32 = .ok (.rsSyn 2 1) ∧ decode 0x61320000#32 = .ok (.rsBm 3 2) ∧
    decode 0x62430000#32 = .ok (.rsChien 4 3) ∧ decode 0x63523400#32 = .ok (.rsForney 5 2 3 4) ∧
    decode 0x64614500#32 = .ok (.rsFix 6 1 4 5) ∧ decode 0x65430000#32 = .ok (.rsDec 4 3) := by
  decide

/-- The illegal words of 95_test_vectors.md section 2.7. -/
theorem test_decode_illegal :
    decode 0x03000000#32 = .error .reservedOpcode ∧ decode 0xFF000000#32 = .error .reservedOpcode ∧
    decode 0x00000001#32 = .error .nonZeroField ∧ decode 0x02100000#32 = .error .nonZeroField ∧
    decode 0x20312001#32 = .error .nonZeroField ∧ decode 0x20312100#32 = .error .nonZeroField ∧
    decode 0x11130000#32 = .error .nonZeroField ∧ decode 0x40801000#32 = .error .badPolyReg ∧
    decode 0x52810000#32 = .error .badPolyReg ∧ decode 0x43201200#32 = .error .sameDestinations ∧
    decode 0x01000005#32 = .error .badCsr ∧ decode 0x01100000#32 = .error .nonZeroField ∧
    decode 0x10110007#32 = .error .nonZeroField ∧ decode 0x31800100#32 = .error .badPolyReg := by
  decide

theorem test_tableWord_fetched :
    decodeTableWord 32 0x22312000 = some (.gfMul 3 1 2) ∧
    (State.reset.withFetchWord 32 0x22312000).cmdPort = [0x22312000#32] := by
  decide

/-! ## One step -/

/-- The state after the word `w` in `s`. -/
def after (w : Word) (s : State) : State :=
  match step (present w s) with
  | .next t => t
  | .fault _ => s
  | .refused _ => s

/-- The response to the word `w` in `s`. -/
def answer (w : Word) (s : State) : Word := (after w s).respPort.getLastD 0xFFFFFFFF#32

/-- Reset with s1 = 0x57, s2 = 0x83, s3 = 0xC1 (95_test_vectors.md T-GF-4). -/
def fieldState : State := writeS 1 0x57 (writeS 2 0x83 (writeS 3 0xC1 State.reset))

/-- Reset with p0 = [01 02 03 04], p1 = [01 03] (95_test_vectors.md T-PA-5). -/
def polyState : State := writeP 0 [1, 2, 3, 4] (writeP 1 [1, 3] State.reset)

/-- A configured state: reset, then RS.CFG k. -/
def cfgState (k : Nat) : State := configure k State.reset

/-- A word of 255 symbols, zero but for its last six (R184's codeword for K = 251). -/
def codeword251 : Poly := zeros 249 ++ [0x12, 0x34, 0x69, 0xD0, 0xBD, 0x22]

/-- R184's received word: elements 3 and 252 altered. -/
def received251 : Poly := zeros 3 ++ [0x5A] ++ zeros 245 ++ [0x12, 0x34, 0x69, 0x2F, 0xBD, 0x22]

theorem test_illegal_step :
    answer 0x03000000#32 State.reset = 0x06000000#32 ∧ (after 0x03000000#32 State.reset).ecause = .illegal := by decide
theorem test_nop : answer 0x00000000#32 fieldState = 0x00000000#32 ∧ (after 0x00000000#32 fieldState).ecause = .ok := by decide
theorem test_csr_fieldId : answer 0x01000000#32 State.reset = 0x00001B03#32 := by decide
theorem test_csr_status :
    answer 0x01000002#32 { State.reset with es := true, ecause := .div0 } = 0x00000302#32 := by decide
theorem test_clrErr :
    csrStatus (after 0x02000000#32 { State.reset with es := true, ecause := .div0, z := true }) = 0x0001#16 := by decide
theorem test_sLi : readS 1 (after 0x10100057#32 State.reset) = 0x57#8 ∧ answer 0x10100100#32 fieldState = 0x01000000#32 := by decide
theorem test_sGet : answer 0x11030000#32 fieldState = 0x000000C1#32 := by decide
theorem test_gfAdd : readS 3 (after 0x20312000#32 fieldState) = 0xD4#8 := by decide
theorem test_gfSub : readS 3 (after 0x21312000#32 fieldState) = 0xD4#8 := by decide
theorem test_gfMul : readS 3 (after 0x22312000#32 fieldState) = 0xC1#8 := by decide
theorem test_gfMul_reduces : gfMul 0x02 0x80 = 0x1B#8 ∧ xmul 0x02 0x80 = 0x1B#8 := by decide
theorem test_gfDiv : readS 5 (after 0x23532000#32 fieldState) = 0x57#8 ∧ answer 0x23539000#32 fieldState = 0x03000000#32 := by decide
theorem test_gfDiv_zero_dividend : readS 6 (after 0x23692000#32 fieldState) = 0x00#8 := by decide
theorem test_gfPow : readS 8 (after 0x248100FE#32 fieldState) = 0xBF#8 ∧ readS 10 (after 0x24A90000#32 fieldState) = 0x01#8 := by decide
theorem test_gfPow_large : gfPow 0x03 65535 = 0x01#8 ∧ gfPow 0x00 65535 = 0x00#8 := by decide
theorem test_gfInv : readS 6 (after 0x25620000#32 fieldState) = 0x80#8 ∧ answer 0x25690000#32 fieldState = 0x03000000#32 := by decide
theorem test_pClr : readP 0 (after 0x30000000#32 polyState) = [] := by decide
theorem test_pPush : readP 1 (after 0x31100005#32 polyState) = [1, 3, 5] := by decide
theorem test_pPush_full : answer 0x310000FF#32 (writeP 0 (zeros 512) State.reset) = 0x07000000#32 := by decide +kernel
theorem test_pGet : answer 0x32000001#32 polyState = 0x00000002#32 ∧ answer 0x32000004#32 polyState = 0x07000000#32 := by decide
theorem test_pLen : answer 0x33000000#32 polyState = 0x00000004#32 := by decide
theorem test_pPadz : readP 1 (after 0x34100004#32 polyState) = [1, 3, 0, 0] ∧ answer 0x34000000#32 polyState = 0x02000000#32 := by decide
theorem test_pPadz_range : answer 0x34000201#32 polyState = 0x07000000#32 := by decide
theorem test_pAdd : readP 2 (after 0x40201000#32 polyState) = [1, 2, 2, 7] := by decide
theorem test_pSub : readP 2 (after 0x41201000#32 polyState) = [1, 2, 2, 7] := by decide
theorem test_pMul : readP 2 (after 0x42211000#32 polyState) = [1, 0, 5] := by decide
theorem test_pMul_range : answer 0x42211000#32 (writeP 1 (zeros 257) State.reset) = 0x07000000#32 := by decide +kernel
theorem test_pDiv_overwrites_sources :
    readP 0 (after 0x43001100#32 polyState) = [1, 1, 0] ∧ readP 1 (after 0x43001100#32 polyState) = [4] := by decide
theorem test_pDiv_div0 : answer 0x43204300#32 polyState = 0x03000000#32 := by decide
theorem test_pMod : readP 2 (after 0x44201000#32 polyState) = [4] := by decide
theorem test_pMod_longer : polyMod [0x12, 0x34, 0x56, 0x00, 0x00] [1, 2, 3] = some [0xB0, 0xC0] := by decide
theorem test_pEval :
    readS 2 (after 0x45201000#32 (writeS 1 2 (writeP 0 [1, 2, 3] State.reset))) = 0x03#8 := by decide
theorem test_rsCfg : (after 0x500000FB#32 State.reset).gen = [0x01, 0x08, 0x24, 0x78, 0x55] ∧
    answer 0x500000FF#32 State.reset = 0x02000000#32 := by decide +kernel
theorem test_rsGen_noCfg : answer 0x51100000#32 State.reset = 0x05000000#32 := by decide
theorem test_rsGen : readP 0 (after 0x51000000#32 (cfgState 251)) = [0x01, 0x08, 0x24, 0x78, 0x55] := by decide +kernel
theorem test_rsEnc : (readP 1 (after 0x52100000#32 (writeP 0 (zeros 249 ++ [0x12, 0x34]) (cfgState 251)))).drop 249 =
    [0x12, 0x34, 0x69, 0xD0, 0xBD, 0x22] := by decide +kernel
theorem test_rsSyn : readP 2 (after 0x60210000#32 (writeP 1 received251 (cfgState 251))) = [0xA5, 0xDD, 0xA8, 0x7E] := by
  decide +kernel
theorem test_rsSyn_zero : answer 0x60210000#32 (writeP 1 codeword251 (cfgState 251)) = 0x00000001#32 := by decide +kernel
theorem test_rsBm : readP 3 (after 0x61320000#32 (writeP 2 [0xA5, 0xDD, 0xA8, 0x7E] State.reset)) = [0x52, 0xB1, 0x01] ∧
    answer 0x61320000#32 (writeP 2 [0xA5, 0xDD, 0xA8, 0x7E] State.reset) = 0x00000002#32 := by decide +kernel
theorem test_rsBm_uncorr : answer 0x61320000#32 (writeP 2 [1, 0x63, 0xC2, 0x41] State.reset) = 0x04000000#32 := by decide +kernel
theorem test_rsChien : readP 4 (after 0x62430000#32 (writeP 3 [0x52, 0xB1, 0x01] State.reset)) = [0x02, 0xFB] := by
  decide +kernel
theorem test_rsChien_uncorr : answer 0x62430000#32 (writeP 3 [1, 0, 1] State.reset) = 0x04000000#32 := by decide +kernel
theorem test_rsForney : readP 5 (after 0x63523400#32 (writeP 2 [0xA5, 0xDD, 0xA8, 0x7E]
    (writeP 3 [0x52, 0xB1, 0x01] (writeP 4 [0x02, 0xFB] State.reset)))) = [0xFF, 0x5A] := by decide +kernel
theorem test_rsForney_check_order : answer 0x63412300#32 (writeP 1 [1] (writeP 2 [1] (writeP 3 [0xFF] State.reset))) =
    0x07000000#32 := by decide +kernel
theorem test_rsFix : readP 6 (after 0x64614500#32 (writeP 1 received251
    (writeP 4 [0x02, 0xFB] (writeP 5 [0xFF, 0x5A] State.reset)))) = codeword251 := by decide +kernel
theorem test_rsDec : answer 0x65010000#32 (writeP 1 received251 (cfgState 251)) = 0x00000002#32 ∧
    (readP 0 (after 0x65010000#32 (writeP 1 received251 (cfgState 251)))).drop 249 = [0x12, 0x34] := by decide +kernel
theorem test_rsDec_uncorr : answer 0x65010000#32 (writeP 1 (codeword251.set 0 1 |>.set 1 1 |>.set 2 1) (cfgState 251)) =
    0x04000000#32 := by decide +kernel

/-! ## Witnesses: for every statement with hypotheses, a state and operands that meet them, each clause at a boundary -/

theorem witness_DecodeOfEncodeIsIdentity : wellFormed (.csrRd 4) = true ∧ wellFormed (.pDiv 0 7 7 7) = true := by decide

theorem witness_EncodeOfDecodeIsIdentity : decode 0x01000004#32 = .ok (.csrRd 4) := by decide

theorem witness_IllegalWordIsAnsweredAndChangesNothing :
    (present 0x01000005#32 State.reset).cmdPort = [0x01000005#32] ∧ ¬ legalWord 0x01000005#32 ∧
    ¬ legalWord 0x43201200#32 ∧ ¬ legalWord 0x03000000#32 ∧ ¬ legalWord 0x40801000#32 ∧ legalWord 0x01000004#32 ∧
    State.reset.es = false ∧ (recordFailure .illegal State.reset).es = true := by decide

theorem witness_StepRunsDecodedCommand :
    (present 0x65100000#32 State.reset).cmdPort = [0x65100000#32] ∧ decode 0x65100000#32 = .ok (.rsDec 1 0) := by decide

theorem witness_StepIdlesWithNoWordPending : State.reset.cmdPort = [] := by decide

theorem witness_EveryWordIsAnsweredOnceInOrder : (present 0xFFFFFFFF#32 State.reset).cmdPort = [0xFFFFFFFF#32] := by decide

theorem witness_StepKeepsInvariant :
    ∃ t, (present 0x500000FE#32 State.reset).Inv ∧ step (present 0x500000FE#32 State.reset) = .next t :=
  ⟨_, by decide, rfl⟩

/-- A failing command: GF.INV of 0 at reset. -/
theorem witness_FailureRecordsOnlyTheFirstCause :
    ∃ t, Answers (.gfInv 0 0) State.reset .div0 0#16 t ∧ (Cause.div0 ≠ .ok) :=
  ⟨_, ⟨rfl, by decide⟩, by decide⟩

theorem witness_ErrorRecordNeverSteersACommand : ∀ n, Instr.gfInv 0 0 ≠ .csrRd n := by simp

theorem witness_OnlyClrErrClearsTheErrorRecord :
    ∃ t, Instr.nop ≠ .clrErr ∧ exec .nop (recordFailure .range State.reset) = .next t ∧
      (recordFailure .range State.reset).es = true ∧ Answers .nop (recordFailure .range State.reset) .ok 0#16 t :=
  ⟨_, by decide, rfl, by decide, rfl, by decide⟩

theorem witness_SymbolRegisterFrame :
    ∃ t, exec (.gfAdd 3 1 2) fieldState = .next t ∧ destS (.gfAdd 3 1 2) ≠ some 2 := ⟨_, rfl, by decide⟩

theorem witness_PolynomialRegisterFrame :
    ∃ t, exec (.pDiv 2 0 1 3) polyState = .next t ∧ (0 : PReg) ∉ destP (.pDiv 2 0 1 3) := ⟨_, rfl, by decide⟩

theorem witness_ConfigurationFrame :
    ∃ t, exec (.rsGen 2) (cfgState 254) = .next t ∧ isCfg (.rsGen 2) = false := ⟨_, rfl, by decide⟩

theorem witness_FlagFrame :
    ∃ t, exec (.rsSyn 2 1) (cfgState 254) = .next t ∧ writesZ (.rsGen 2) = false ∧ writesNerr (.rsSyn 2 1) = false :=
  ⟨_, rfl, by decide, by decide⟩

theorem witness_CausesByCommand : ∃ t, Answers (.rsEnc 1 0) State.reset .noCfg 0#16 t := ⟨_, rfl, by decide⟩

theorem witness_NopAndClrErrCommands :
    opField 0x00000001#32 = 0x00#8 ∧ zField 0x00000001#32 ≠ 0#24 ∧ opField 0x02800000#32 = 0x02#8 ∧
    zField 0x02800000#32 ≠ 0#24 ∧ (∃ t, exec .nop (recordFailure .range State.reset) = .next t) ∧
    (recordFailure .range State.reset).es = true :=
  ⟨by decide, by decide, by decide, by decide, ⟨_, rfl⟩, by decide⟩

theorem witness_CsrRdCommand : (4#16 : Imm) ≤ 4#16 ∧ ¬ (5#16 : Imm) ≤ 4#16 := by decide

theorem witness_SLiCommand : 255 < (256#16 : Imm).toNat ∧ (255#16 : Imm).toNat ≤ 255 := by decide

theorem witness_SGetAndPLenCommands : polyState.pregWf := by decide

theorem witness_PPushCommand :
    255 < (256#16 : Imm).toNat ∧ (255#16 : Imm).toNat ≤ 255 ∧ 512 ≤ (readP 0 (writeP 0 (zeros 512) State.reset)).length ∧
    (readP 0 (writeP 0 (zeros 511) State.reset)).length < 512 := by decide +kernel

theorem witness_PGetCommand :
    (readP 0 polyState).length ≤ (4#16 : Imm).toNat ∧ (3#16 : Imm).toNat < (readP 0 polyState).length := by decide

theorem witness_PPadzCommand :
    (3#16 : Imm).toNat < (readP 0 polyState).length ∧
    ((readP 0 polyState).length ≤ (513#16 : Imm).toNat ∧ 512 < (513#16 : Imm).toNat) ∧
    (readP 0 polyState).length ≤ (4#16 : Imm).toNat ∧ (512#16 : Imm).toNat ≤ 512 := by decide

theorem witness_FieldLaws : (255#8 : Symbol) ≠ 0#8 ∧ (1#8 : Symbol) ≠ 0#8 := by decide

theorem witness_GfDivCommand :
    readS 9 fieldState = 0#8 ∧ readS 2 fieldState ≠ 0#8 ∧ xmul 0x57 (readS 2 fieldState) = readS 3 fieldState := by decide

theorem witness_GfInvCommand : readS 9 fieldState = 0#8 ∧ readS 2 fieldState ≠ 0#8 := by decide

theorem witness_PMulCommand :
    let s := writeP 0 (zeros 257) (writeP 1 (zeros 256) State.reset)
    (readP 0 s ≠ [] ∧ readP 0 s ≠ [] ∧ 512 < (readP 0 s).length + (readP 0 s).length - 1) ∧
    ¬ (readP 0 s ≠ [] ∧ readP 1 s ≠ [] ∧ 512 < (readP 0 s).length + (readP 1 s).length - 1) ∧
    ¬ (readP 0 s ≠ [] ∧ readP 2 s ≠ [] ∧ 512 < (readP 0 s).length + (readP 2 s).length - 1) := by decide +kernel

theorem witness_PDivCommand :
    (2 : PReg) = 2 ∧ (2 : PReg) ≠ 3 ∧ (readP 4 polyState).headD 0#8 = 0#8 ∧
    (readP 0 (writeP 0 [0, 1] State.reset)).headD 0#8 = 0#8 ∧ (readP 1 polyState).headD 0#8 ≠ 0#8 := by decide

theorem witness_PModCommand :
    (readP 4 polyState).headD 0#8 = 0#8 ∧ (readP 1 polyState).headD 0#8 ≠ 0#8 := by decide

theorem witness_PolynomialLaws :
    ([1] : Poly) ≠ [] ∧ polyDivmod [1, 3, 2] [1, 1] = some ([1, 2], [0]) ∧ polyEval [1, 1] 1 = 0#8 := by decide

theorem witness_GenpolyRootsAndExamples : (1 ≤ 1 ∧ 1 ≤ 254) ∧ 1 ≤ 254 ∧ 254 ≤ 254 := by decide

theorem witness_RsCfgCommand :
    (0#16 : Imm).toNat = 0 ∧ 255 ≤ (255#16 : Imm).toNat ∧ (1#16 : Imm).toNat ≠ 0 ∧ (254#16 : Imm).toNat < 255 := by decide

/-- A configured state satisfies the invariant. -/
theorem cfgState_inv : (cfgState 254).Inv ∧ (cfgState 254).cfgv = true := by decide +kernel

theorem witness_RsGenCommand : State.reset.cfgv = false ∧ (cfgState 254).cfgv = true ∧ (cfgState 254).Inv := by decide +kernel

theorem witness_RsEncCommand :
    let s := writeP 0 (zeros 254) (cfgState 254)
    State.reset.Inv ∧ State.reset.cfgv = false ∧ s.Inv ∧ s.cfgv = true ∧
      (readP 1 s).length ≠ s.k.val ∧ (readP 0 s).length = s.k.val := by decide +kernel

theorem witness_CodewordProperties :
    (zeros 1).length = 1 ∧ 1 ≤ 1 ∧ (zeros 254).length = 254 ∧ 254 ≤ 254 := by decide +kernel

theorem witness_RsSynCommand :
    let s := writeP 0 (zeros 255) (cfgState 254)
    State.reset.cfgv = false ∧ s.cfgv = true ∧ (readP 1 s).length ≠ 255 ∧ (readP 0 s).length = 255 := by decide +kernel

theorem witness_SyndromesZeroIffCodeword : 1 ≤ 254 ∧ 254 ≤ 254 ∧ (zeros 255).length = 255 := by decide +kernel

theorem witness_RsBmCommand :
    (readP 0 State.reset).length = 0 ∧ 254 < (readP 0 (writeP 0 (zeros 255) State.reset)).length ∧
    bm [5] = none ∧ bm [0] = some [1] ∧ (zeros 254).length ≤ 254 := by decide +kernel

theorem witness_BmFindsTheLeastRecurrence :
    1 ≤ ([1, 1] : Poly).length ∧ ([1, 1] : Poly).length ≤ 254 ∧ (zeros 254).length ≤ 254 ∧
    Recurs [1, 1] 1 (fun _ => 1#8) ∧ 2 * 1 ≤ ([1, 1] : Poly).length :=
  ⟨by decide, by decide, by decide +kernel,
    ⟨rfl, fun r h1 h2 => by
      have : r = 1 := by simp at h2; omega
      subst this
      decide⟩, by decide⟩

/-- The number of roots of a polynomial among the non-zero elements. -/
def rootCount (p : Poly) : Nat :=
  ((List.range 255).filter (fun j => decide (polyEval p (alog (Fin.ofNat 255 (255 - j))) = 0#8))).length

theorem witness_RsChienCommand :
    readP 0 State.reset = [] ∧ ([1] : Poly) ≠ [] ∧ rootCount [1] = ([1] : Poly).length - 1 ∧
    rootCount [1, 0, 1] ≠ ([1, 0, 1] : Poly).length - 1 ∧
    rootCount [0x52, 0xB1, 0x01] = ([0x52, 0xB1, 0x01] : Poly).length - 1 := by decide +kernel

theorem witness_RsForneyCommand :
    (readP 0 State.reset).length = 0 ∧ 254 < (zeros 255).length ∧ (zeros 254).length ≤ 254 ∧
    (255#8 ∈ ([255] : Poly)) ∧ (255#8 ∉ ([0xFE, 0] : Poly)) ∧
    (∃ j ∈ ([0] : Poly), lambdaPrimeAt [1] (alphaPowNeg j.toNat) = 0#8) ∧
    (∀ j ∈ ([0x02, 0xFB] : Poly), lambdaPrimeAt [0x52, 0xB1, 0x01] (alphaPowNeg j.toNat) ≠ 0#8) := by decide +kernel

theorem witness_RsFixCommand :
    (readP 0 State.reset).length ≠ 255 ∧ (zeros 255).length = 255 ∧ ([255] : Poly).length = ([9] : Poly).length ∧
    ([255] : Poly).length ≠ ([] : Poly).length ∧ 255#8 ∈ ([255] : Poly) ∧ 255#8 ∉ ([0xFE, 0, 0] : Poly) := by decide +kernel

theorem witness_RsDecCommand :
    let s := writeP 0 (zeros 255) (cfgState 254)
    State.reset.cfgv = false ∧ s.cfgv = true ∧ (readP 1 s).length ≠ 255 ∧ (readP 0 s).length = 255 ∧
    decodeBlock (readP 0 s) s.k.val = some (zeros 254, 0) ∧ decodeBlock (1#8 :: zeros 254) 254 = none ∧
    (∀ i, i < 255 - s.k.val → polyEval (readP 0 s) (alphaPow i) = 0#8) := by decide +kernel

/-- K = 253, the zero codeword with its last symbol altered: one error, t = 1. -/
def oneError : State := writeP 1 (zeros 254 ++ [0x21]) (cfgState 253)

/-- The command answers on the state with this word and goes on. -/
def answersWith (i : Instr) (s : State) (w : Word) : Bool :=
  match exec i s with
  | .next t => decide (t.respPort = s.respPort ++ [w])
  | .fault _ => false
  | .refused _ => false

theorem witness_RsDecResultBelongsToANearCodeword :
    oneError.Inv ∧ answersWith (.rsDec 0 1) oneError (responseWord .ok 1#16) = true := by decide +kernel

theorem witness_StagedDecodeEqualsRsDec :
    oneError.Inv ∧ oneError.cfgv = true ∧ (readP 1 oneError).length = 255 := by decide +kernel

theorem witness_RsDecCorrectsUpToT :
    oneError.Inv ∧ oneError.cfgv = true ∧ (zeros 253).length = oneError.k.val ∧ (readP 1 oneError).length = 255 ∧
    distance (readP 1 oneError) (encodeBlock (zeros 253) oneError.k.val) = 1 ∧ 1 ≤ (255 - oneError.k.val) / 2 := by
  decide +kernel

end Sys2Proof.Tests
end

section
/-! The reset state and the field tables (spec/10_state.md R21, R22, R43). Two facts are checks of the printed tables, entry
by entry: the recurrence, taken around the cycle, and that LOG and ALOG invert each other. The rest follows from them. -/

namespace Sys2Proof.Machine

/-! ### The tables -/

@[simp] theorem alog_zero : alog 0 = 1#8 := by decide

/-- The recurrence of R21 around the cycle: index 254 is followed by index 0. -/
theorem alog_add_one : ∀ i : Fin 255, alog (i + 1) = xmul (alog i) Config.alpha := by decide +kernel

theorem alog_succ (i : Fin 254) : alog i.succ = xmul (alog i.castSucc) Config.alpha := by
  rw [← Fin.coeSucc_eq_succ]
  exact alog_add_one i.castSucc

@[simp] theorem log?_zero : log? 0#8 = none := rfl

@[simp] theorem log?_alog : ∀ i : Fin 255, log? (alog i) = some i := by decide +kernel

theorem map_alog_log? : ∀ a : Symbol, a ≠ 0#8 → (log? a).map alog = some a := by decide +kernel

theorem alog_ne_zero (i : Fin 255) : alog i ≠ 0#8 := by
  intro h
  have hlog : log? (alog i) = none := by rw [h, log?_zero]
  simp at hlog

theorem alog_injective : Function.Injective alog := fun i j h => by
  have hlog : log? (alog i) = log? (alog j) := congrArg log? h
  simpa using hlog

/-- Every non-zero symbol is a power of ALPHA, and LOG names the exponent. -/
theorem exists_log?_eq_some {a : Symbol} (ha : a ≠ 0#8) : ∃ i, log? a = some i ∧ alog i = a :=
  Option.map_eq_some_iff.mp (map_alog_log? a ha)

/-! ### The obligations -/

/-- Settles O10: the reset state's registers by their read rules, its other fields as `State.reset` gives them, and the
tables by their recurrence and inverse. -/
theorem resetValues : Obligations.ResetValues :=
  ⟨readS_reset, readP_reset, rfl, rfl, rfl, rfl, rfl, rfl, rfl, alog_zero, alog_succ, log?_alog⟩

/-- Settles O11: the closing equation is the recurrence at index 254; that no entry is 0 and that the entries differ
follow from LOG inverting ALOG. -/
theorem fieldTables : Obligations.FieldTables :=
  ⟨alog_zero, alog_succ, (alog_add_one 254).symm, alog_ne_zero, log?_alog, fun _ _ h => alog_injective h,
    fun _ ha => exists_log?_eq_some ha, log?_zero⟩

end Sys2Proof.Machine
end

section
/-! The two ports (spec/20_memory.md R60): every command and every word answers with one response, so a step takes one
word and appends one response, and a run over the pending words drains the command port. -/

namespace Sys2Proof.Machine

/-! ### What a step does with a word -/

theorem step_of_decode_ok {s : State} {w : Word} {rest : List Word} {i : Instr} (hp : s.cmdPort = w :: rest)
    (hd : decode w = .ok i) : step s = exec i { s with cmdPort := rest } := by
  simp [step, takeCommand_cons hp, hd]

theorem step_of_decode_error {s : State} {w : Word} {rest : List Word} {e : DecodeError} (hp : s.cmdPort = w :: rest)
    (hd : decode w = .error e) : step s = raise .illegal { s with cmdPort := rest } := by
  simp [step, takeCommand_cons hp, hd]

/-! ### One response each -/

/-- The two ports of `t` against `s` after one command: nothing taken, one response word appended. -/
def AnswersOnce (s t : State) : Prop :=
  t.cmdPort = s.cmdPort ∧ ∃ r, t.respPort = s.respPort ++ [r]

theorem raise_answersOnce (c : Cause) (s : State) : ∃ t, raise c s = .next t ∧ AnswersOnce s t :=
  ⟨_, raise_eq c s, by simp, responseWord c 0#16, by simp⟩

theorem exec_answersOnce (i : Instr) (s : State) : ∃ t, exec i s = .next t ∧ AnswersOnce s t := by
  rcases exec_cases i s with ⟨c, -, -, hraise⟩ | ⟨v, t, hdone, -, hsame⟩
  · rw [hraise]
    exact raise_answersOnce c s
  · rw [hdone]
    exact ⟨_, done_eq v t, by simp [hsame.cmdPort], responseWord .ok v, by simp [hsame.respPort]⟩

/-- Taking the word and answering it: the command port loses its head, the response port gains one word at its end. -/
theorem step_takes_head_and_answers {s : State} {w : Word} {rest : List Word} (hp : s.cmdPort = w :: rest) :
    ∃ t r, step s = .next t ∧ t.cmdPort = rest ∧ t.respPort = s.respPort ++ [r] := by
  have hanswer : ∃ t, step s = .next t ∧ AnswersOnce { s with cmdPort := rest } t := by
    cases hd : decode w with
    | ok i =>
      rw [step_of_decode_ok hp hd]
      exact exec_answersOnce i _
    | error e =>
      rw [step_of_decode_error hp hd]
      exact raise_answersOnce .illegal _
  obtain ⟨t, hstep, hcmd, r, hresp⟩ := hanswer
  exact ⟨t, r, hstep, hcmd, hresp⟩

/-! ### Draining the command port -/

theorem run_succ_of_step {s t : State} (h : step s = .next t) (n : Nat) :
    Host.Core.run Sys2Proof.core (n + 1) s = Host.Core.run Sys2Proof.core n t := by
  have hcore : Sys2Proof.core.step s = .next t := h
  simp [Host.Core.run, hcore]

theorem run_drains_cmdPort (ws : List Word) (s : State) (hp : s.cmdPort = ws) :
    ∃ t rs, Host.Core.run Sys2Proof.core ws.length s = .next t ∧ t.cmdPort = [] ∧
      rs.length = ws.length ∧ t.respPort = s.respPort ++ rs := by
  induction ws generalizing s with
  | nil => exact ⟨s, [], rfl, hp, rfl, by simp⟩
  | cons w rest ih =>
    obtain ⟨u, r, hstep, hrest, hr⟩ := step_takes_head_and_answers hp
    obtain ⟨t, rs, hrun, hempty, hlen, hrs⟩ := ih u hrest
    refine ⟨t, r :: rs, ?_, hempty, by simp [hlen], by simp [hrs, hr]⟩
    rw [List.length_cons, run_succ_of_step hstep, hrun]

/-! ### The obligation -/

/-- Settles O8: one step by the inversion of `exec`, the run by induction on the pending words. -/
theorem everyWordIsAnsweredOnceInOrder : Obligations.EveryWordIsAnsweredOnceInOrder :=
  ⟨fun _ _ _ hp => step_takes_head_and_answers hp, fun s => run_drains_cmdPort s.cmdPort s rfl⟩

end Sys2Proof.Machine
end

section
/-! The words of the opcode map (spec/30_encoding.md R79 to R87): a word that decodes is the encoding of its command, so it
is legal, and a word that is not legal is answered E_ILLEGAL. -/

namespace Sys2Proof

/-! ### A word from its fields -/

theorem wordZ_fields {w : Word} (hz : zField w = 0#24) : wordZ (opField w) = w := by
  have happend : opField w ++ zField w = w := by
    apply BitVec.eq_of_getLsbD_eq; intro i hi
    simp [opField, zField]; grind
  rw [wordZ, ← hz, happend]

theorem wordR_fields {w : Word} (hlow : lowField w = 0#8) :
    wordR (opField w) (dField w) (aField w) (bField w) (cField w) = w := by
  have happend : opField w ++ dField w ++ aField w ++ bField w ++ cField w ++ lowField w = w := by
    apply BitVec.eq_of_getLsbD_eq; intro i hi
    simp [opField, dField, aField, bField, cField, lowField]; grind
  rw [wordR, ← hlow, happend]

@[simp] theorem specS_symReg (x : BitVec 4) : specS (symReg x) = x := rfl

theorem specP_injective : Function.Injective specP := fun r q h => by
  have hreg : polyReg (specP r) = polyReg (specP q) := congrArg polyReg h
  simpa using hreg

theorem specP_of_polyReg {x : BitVec 4} {r : PReg} (h : polyReg x = .ok r) : specP r = x := by
  unfold polyReg at h
  split at h
  · cases h
    simp [specP]
  · cases h

/-! ### Taking one check off the front of a decoder -/

theorem mustBeZero_bind_eq_ok {n : Nat} {x : BitVec n} {f : Unit → Except DecodeError Instr} {i : Instr} :
    (mustBeZero x >>= f) = .ok i ↔ x = 0#n ∧ f () = .ok i := by
  by_cases hx : x = 0#n
  · subst hx
    simp [Bind.bind, Except.bind]
  · simp [mustBeZero_ne hx, hx, Bind.bind, Except.bind]

theorem polyReg_bind_eq_ok {x : BitVec 4} {f : PReg → Except DecodeError Instr} {i : Instr} :
    (polyReg x >>= f) = .ok i ↔ ∃ r, specP r = x ∧ f r = .ok i := by
  constructor
  · intro h
    cases hr : polyReg x with
    | ok r =>
      rw [hr] at h
      exact ⟨r, specP_of_polyReg hr, h⟩
    | error e =>
      rw [hr] at h
      cases h
  · rintro ⟨r, rfl, h⟩
    rw [polyReg_specP]
    exact h

/-! ### Operand shapes: what each reads is the word it was given -/

section
variable {w : Word} {i : Instr} {op : BitVec 8}

theorem encode_of_operandsSSS {f : SReg → SReg → SReg → Instr}
    (hf : ∀ d a b, encode (f d a b) = wordR op (specS d) (specS a) (specS b) 0) (hop : opField w = op)
    (h : operandsSSS f w = .ok i) : encode i = w := by
  simp only [operandsSSS, mustBeZero_bind_eq_ok] at h
  obtain ⟨hlow, hc, ⟨⟩⟩ := h
  simpa [hf, hop, hc] using wordR_fields hlow

theorem encode_of_operandsP {f : PReg → Instr} (hf : ∀ d, encode (f d) = wordR op (specP d) 0 0 0)
    (hop : opField w = op) (h : operandsP f w = .ok i) : encode i = w := by
  simp only [operandsP, mustBeZero_bind_eq_ok, polyReg_bind_eq_ok] at h
  obtain ⟨hlow, ha, hb, hc, d, hd, ⟨⟩⟩ := h
  simpa [hf, hop, hd, ha, hb, hc] using wordR_fields hlow

theorem encode_of_operandsPImm {f : PReg → Imm → Instr} (hf : ∀ d imm, encode (f d imm) = wordI op (specP d) 0 imm)
    (hop : opField w = op) (h : operandsPImm f w = .ok i) : encode i = w := by
  simp only [operandsPImm, mustBeZero_bind_eq_ok, polyReg_bind_eq_ok] at h
  obtain ⟨ha, d, hd, ⟨⟩⟩ := h
  simpa [hf, hop, hd, ha] using wordI_fields w

theorem encode_of_operandsPP {f : PReg → PReg → Instr}
    (hf : ∀ d a, encode (f d a) = wordR op (specP d) (specP a) 0 0) (hop : opField w = op)
    (h : operandsPP f w = .ok i) : encode i = w := by
  simp only [operandsPP, mustBeZero_bind_eq_ok, polyReg_bind_eq_ok] at h
  obtain ⟨hlow, hb, hc, d, hd, a, ha, ⟨⟩⟩ := h
  simpa [hf, hop, hd, ha, hb, hc] using wordR_fields hlow

theorem encode_of_operandsPPP {f : PReg → PReg → PReg → Instr}
    (hf : ∀ d a b, encode (f d a b) = wordR op (specP d) (specP a) (specP b) 0) (hop : opField w = op)
    (h : operandsPPP f w = .ok i) : encode i = w := by
  simp only [operandsPPP, mustBeZero_bind_eq_ok, polyReg_bind_eq_ok] at h
  obtain ⟨hlow, hc, d, hd, a, ha, b, hb, ⟨⟩⟩ := h
  simpa [hf, hop, hd, ha, hb, hc] using wordR_fields hlow

theorem encode_of_operandsPPPP {f : PReg → PReg → PReg → PReg → Instr}
    (hf : ∀ d a b c, encode (f d a b c) = wordR op (specP d) (specP a) (specP b) (specP c)) (hop : opField w = op)
    (h : operandsPPPP f w = .ok i) : encode i = w := by
  simp only [operandsPPPP, mustBeZero_bind_eq_ok, polyReg_bind_eq_ok] at h
  obtain ⟨hlow, d, hd, a, ha, b, hb, c, hc, ⟨⟩⟩ := h
  simpa [hf, hop, hd, ha, hb, hc] using wordR_fields hlow

end

/-! ### Decoding, row by row of the opcode map -/

theorem encode_of_decodeOp {op : BitVec 8} {w : Word} {i : Instr} (hop : opField w = op) (h : decodeOp op w = .ok i) :
    encode i = w := by
  unfold decodeOp at h
  split at h
  case h_1 => -- NOP
    obtain ⟨hz, ⟨⟩⟩ := mustBeZero_bind_eq_ok.mp h
    simpa [encode, hop] using wordZ_fields hz
  case h_2 => -- CSR.RD
    simp only [mustBeZero_bind_eq_ok] at h
    obtain ⟨hd, ha, ⟨⟩⟩ := h
    simpa [encode, hop, hd, ha] using wordI_fields w
  case h_3 => -- CLRERR
    obtain ⟨hz, ⟨⟩⟩ := mustBeZero_bind_eq_ok.mp h
    simpa [encode, hop] using wordZ_fields hz
  case h_4 => -- S.LI
    obtain ⟨ha, ⟨⟩⟩ := mustBeZero_bind_eq_ok.mp h
    simpa [encode, hop, ha] using wordI_fields w
  case h_5 => -- S.GET
    simp only [mustBeZero_bind_eq_ok] at h
    obtain ⟨hlow, hd, hb, hc, ⟨⟩⟩ := h
    simpa [encode, hop, hd, hb, hc] using wordR_fields hlow
  case h_6 | h_7 | h_8 | h_9 => -- GF.ADD, GF.SUB, GF.MUL, GF.DIV
    exact encode_of_operandsSSS (fun _ _ _ => rfl) hop h
  case h_10 => -- GF.POW
    cases h
    simpa [encode, hop] using wordI_fields w
  case h_11 => -- GF.INV
    simp only [mustBeZero_bind_eq_ok] at h
    obtain ⟨hlow, hb, hc, ⟨⟩⟩ := h
    simpa [encode, hop, hb, hc] using wordR_fields hlow
  case h_14 => -- P.GET
    simp only [mustBeZero_bind_eq_ok, polyReg_bind_eq_ok] at h
    obtain ⟨hd, a, ha, ⟨⟩⟩ := h
    simpa [encode, hop, hd, ha] using wordI_fields w
  case h_15 => -- P.LEN
    simp only [mustBeZero_bind_eq_ok, polyReg_bind_eq_ok] at h
    obtain ⟨hlow, hd, hb, hc, a, ha, ⟨⟩⟩ := h
    simpa [encode, hop, hd, ha, hb, hc] using wordR_fields hlow
  case h_22 => -- P.EVAL
    simp only [mustBeZero_bind_eq_ok, polyReg_bind_eq_ok] at h
    obtain ⟨hlow, hc, a, ha, ⟨⟩⟩ := h
    simpa [encode, hop, ha, hc] using wordR_fields hlow
  case h_23 => -- RS.CFG
    simp only [mustBeZero_bind_eq_ok] at h
    obtain ⟨hd, ha, ⟨⟩⟩ := h
    simpa [encode, hop, hd, ha] using wordI_fields w
  case h_12 | h_24 => -- P.CLR, RS.GEN
    exact encode_of_operandsP (fun _ => rfl) hop h
  case h_13 | h_16 => -- P.PUSH, P.PADZ
    exact encode_of_operandsPImm (fun _ _ => rfl) hop h
  case h_17 | h_18 | h_19 | h_21 => -- P.ADD, P.SUB, P.MUL, P.MOD
    exact encode_of_operandsPPP (fun _ _ _ => rfl) hop h
  case h_20 | h_29 | h_30 => -- P.DIV, RS.FORNEY, RS.FIX
    exact encode_of_operandsPPPP (fun _ _ _ _ => rfl) hop h
  case h_25 | h_26 | h_27 | h_28 | h_31 => -- RS.ENC, RS.SYN, RS.BM, RS.CHIEN, RS.DEC
    exact encode_of_operandsPP (fun _ _ => rfl) hop h
  case h_32 => -- reserved (R82)
    cases h

theorem checkOperands_eq_ok {i j : Instr} : checkOperands j = .ok i ↔ j = i ∧ wellFormed j = true := by
  unfold checkOperands
  split
  case isTrue hwf => simp [hwf]
  case isFalse hwf => split <;> simp [hwf]

theorem decode_eq_ok {w : Word} {i : Instr} :
    decode w = .ok i ↔ decodeOp (opField w) w = .ok i ∧ wellFormed i = true := by
  unfold decode
  cases decodeOp (opField w) w with
  | error e => simp [Bind.bind, Except.bind]
  | ok j =>
    have hbind : (Except.ok j >>= checkOperands : Except DecodeError Instr) = checkOperands j := rfl
    rw [hbind, checkOperands_eq_ok, Except.ok.injEq]
    exact and_congr_right fun hji => by rw [hji]

/-- No bit of a word that decodes is dropped. -/
theorem encode_of_decode {w : Word} {i : Instr} (h : decode w = .ok i) : encode i = w :=
  encode_of_decodeOp rfl (decode_eq_ok.mp h).1

/-! ### The encoding of a well-formed command is a legal word -/

theorem opcodeRow_mem (i : Instr) : opcodeRow i ∈ opcodeRows := by
  have hlt : rowIndex i < opcodeRows.length := by cases i <;> simp [rowIndex, opcodeRows]
  rw [opcodeRow, List.getD_eq_getElem _ _ hlt]
  exact List.getElem_mem hlt

open Laws in
/-- The family OpcodeRow for every command at once. -/
theorem encode_and_opcodeRow : ∀ i, encode i &&& (opcodeRow i).2 = (opcodeRow i).1
  | .nop => OpcodeRow.nop
  | .csrRd num => OpcodeRow.csrRd num
  | .clrErr => OpcodeRow.clrErr
  | .sLi d imm => OpcodeRow.sLi d imm
  | .sGet a => OpcodeRow.sGet a
  | .gfAdd d a b => OpcodeRow.gfAdd d a b
  | .gfSub d a b => OpcodeRow.gfSub d a b
  | .gfMul d a b => OpcodeRow.gfMul d a b
  | .gfDiv d a b => OpcodeRow.gfDiv d a b
  | .gfPow d a e => OpcodeRow.gfPow d a e
  | .gfInv d a => OpcodeRow.gfInv d a
  | .pClr d => OpcodeRow.pClr d
  | .pPush d imm => OpcodeRow.pPush d imm
  | .pGet a idx => OpcodeRow.pGet a idx
  | .pLen a => OpcodeRow.pLen a
  | .pPadz d len => OpcodeRow.pPadz d len
  | .pAdd d a b => OpcodeRow.pAdd d a b
  | .pSub d a b => OpcodeRow.pSub d a b
  | .pMul d a b => OpcodeRow.pMul d a b
  | .pDiv d a b c => OpcodeRow.pDiv d a b c
  | .pMod d a b => OpcodeRow.pMod d a b
  | .pEval d a b => OpcodeRow.pEval d a b
  | .rsCfg k => OpcodeRow.rsCfg k
  | .rsGen d => OpcodeRow.rsGen d
  | .rsEnc d a => OpcodeRow.rsEnc d a
  | .rsSyn d a => OpcodeRow.rsSyn d a
  | .rsBm d a => OpcodeRow.rsBm d a
  | .rsChien d a => OpcodeRow.rsChien d a
  | .rsForney d a b c => OpcodeRow.rsForney d a b c
  | .rsFix d a b c => OpcodeRow.rsFix d a b c
  | .rsDec d a => OpcodeRow.rsDec d a

theorem eq_csrRd_of_opField {i : Instr} (h : opField (encode i) = 0x01#8) : ∃ num, i = .csrRd num := by
  cases i
  case csrRd num => exact ⟨num, rfl⟩
  all_goals simp [encode] at h

theorem eq_pDiv_of_opField {i : Instr} (h : opField (encode i) = 0x43#8) : ∃ d a b c, i = .pDiv d a b c := by
  cases i
  case pDiv d a b c => exact ⟨d, a, b, c, rfl⟩
  all_goals simp [encode] at h

namespace Machine

theorem legalWord_encode {i : Instr} (hwf : wellFormed i = true) : legalWord (encode i) := by
  refine ⟨⟨opcodeRow i, opcodeRow_mem i, encode_and_opcodeRow i⟩, ?_, ?_⟩
  · rintro ⟨hop, hdc⟩
    obtain ⟨d, a, b, c, rfl⟩ := eq_pDiv_of_opField hop
    have hne : d ≠ c := of_decide_eq_true hwf
    exact hne (specP_injective (by simpa [encode] using hdc))
  · rintro ⟨hop, himm⟩
    obtain ⟨num, rfl⟩ := eq_csrRd_of_opField hop
    have hle : num ≤ 4#16 := of_decide_eq_true hwf
    exact BitVec.not_lt.mpr hle (by simpa [encode] using himm)

theorem legalWord_of_decode {w : Word} {i : Instr} (h : decode w = .ok i) : legalWord w := by
  obtain ⟨-, hwf⟩ := decode_eq_ok.mp h
  rw [← encode_of_decode h]
  exact legalWord_encode hwf

theorem decode_error_of_not_legalWord {w : Word} (hw : ¬ legalWord w) : ∃ e, decode w = .error e := by
  cases hd : decode w with
  | ok i => exact absurd (legalWord_of_decode hd) hw
  | error e => exact ⟨e, rfl⟩

/-! ### The obligation -/

/-- Settles O5: a word that decodes is legal, so this one is refused, and the step is `raise` of E_ILLEGAL, whose record
by `recordFailure` depends on ES alone. -/
theorem illegalWordIsAnsweredAndChangesNothing : Obligations.IllegalWordIsAnsweredAndChangesNothing := by
  intro s w rest hp hw
  obtain ⟨e, hd⟩ := decode_error_of_not_legalWord hw
  exact ⟨step_of_decode_error hp hd, fun hes => recordFailure_of_es hes, fun hes => recordFailure_of_not_es hes⟩

end Machine
end Sys2Proof
end

section
/-! The Field Engine (spec/40_field.md R100 to R115). The shift-and-reduce product is the XOR of the multiples x^i·a over
the bits i of b, so it is additive in each factor; an additive map is known by its values on the powers of x; hence
multiplication by ALPHA associates with the product, and the product of two powers of ALPHA is the power of the sum of the
exponents, as in the tables. The field laws are then laws of exponents modulo 255, and distributivity is additivity. -/

namespace Sys2Proof.Machine

/-! ### XOR sums -/

@[simp] theorem xorSum_zero (f : Nat → Symbol) : xorSum 0 f = 0#8 := rfl

theorem xorSum_succ (n : Nat) (f : Nat → Symbol) : xorSum (n + 1) f = xorSum n f ^^^ f n := by
  simp [xorSum, List.range_succ]

theorem xorSum_xor (n : Nat) (f g : Nat → Symbol) :
    xorSum n (fun i => f i ^^^ g i) = xorSum n f ^^^ xorSum n g := by
  induction n with
  | zero => simp
  | succ n ih => simp only [xorSum_succ, ih]; ac_rfl

/-- A bit that one term alone may have set. -/
theorem getLsbD_xorSum (n : Nat) {f : Nat → Symbol} {j : Nat} (h : ∀ i ≠ j, (f i).getLsbD j = false) :
    (xorSum n f).getLsbD j = (decide (j < n) && (f j).getLsbD j) := by
  induction n with
  | zero => simp
  | succ n ih =>
    rw [xorSum_succ, BitVec.getLsbD_xor, ih]
    by_cases hj : j = n
    · simp [hj]
    · have hlt : j < n + 1 ↔ j < n := by omega
      simp [h n (Ne.symm hj), hlt]

/-- A symbol is the sum of the powers of x at its bits. -/
theorem xorSum_bits (a : Symbol) : xorSum 8 (fun i => if a.getLsbD i then BitVec.twoPow 8 i else 0#8) = a := by
  apply BitVec.eq_of_getLsbD_eq
  intro j hj
  rw [getLsbD_xorSum]
  · cases ha : a.getLsbD j <;> simp [hj]
  · intro i hi
    cases ha : a.getLsbD i <;> simp [hi]

/-! ### Maps that respect XOR -/

/-- `f` is additive: it sends sums in the field to sums (R100). -/
def XorAdditive (f : Symbol → Symbol) : Prop := ∀ a b, f (a ^^^ b) = f a ^^^ f b

namespace XorAdditive

variable {f g : Symbol → Symbol}

theorem map_zero (hf : XorAdditive f) : f 0#8 = 0#8 := by
  have h := hf 0#8 0#8
  simpa using h

theorem comp (hf : XorAdditive f) (hg : XorAdditive g) : XorAdditive (fun a => f (g a)) := fun a b => by
  simp only [hg a b, hf (g a) (g b)]

theorem iterate (hf : XorAdditive f) : ∀ n, XorAdditive f^[n]
  | 0 => fun _ _ => rfl
  | n + 1 => (iterate hf n).comp hf

theorem map_xorSum (hf : XorAdditive f) (n : Nat) (t : Nat → Symbol) :
    f (xorSum n t) = xorSum n (fun i => f (t i)) := by
  induction n with
  | zero => exact hf.map_zero
  | succ n ih => rw [xorSum_succ, hf, ih, ← xorSum_succ n (fun i => f (t i))]

end XorAdditive

/-- Two additive maps that agree on the powers of x are equal. -/
theorem XorAdditive.eq_of_eq_twoPow {f g : Symbol → Symbol} (hf : XorAdditive f) (hg : XorAdditive g)
    (h : ∀ i : Fin 8, f (BitVec.twoPow 8 i) = g (BitVec.twoPow 8 i)) (a : Symbol) : f a = g a := by
  have hterm : ∀ i, f (if a.getLsbD i then BitVec.twoPow 8 i else 0#8) =
      g (if a.getLsbD i then BitVec.twoPow 8 i else 0#8) := by
    intro i
    by_cases hi : a.getLsbD i = true
    · rw [if_pos hi]
      exact h ⟨i, BitVec.lt_of_getLsbD hi⟩
    · rw [if_neg hi, hf.map_zero, hg.map_zero]
  rw [← xorSum_bits a, hf.map_xorSum, hg.map_xorSum]
  exact congrArg (xorSum 8) (funext hterm)

/-! ### The shift-and-reduce product (R21) -/

/-- What reducing modulo POLY adds to the shifted symbol: the low bits of POLY when the highest bit is shifted out. -/
def xtimeCarry (a : Symbol) : Symbol := if a.msb then 0x1B#8 else 0#8

/-- Multiplication by x: a shift, reduced modulo POLY. -/
def xtime (a : Symbol) : Symbol := (a <<< 1) ^^^ xtimeCarry a

theorem xtimeCarry_xor : XorAdditive xtimeCarry := fun a b => by
  cases ha : a.msb <;> cases hb : b.msb <;> simp [xtimeCarry, ha, hb]

theorem xtime_xor : XorAdditive xtime := fun a b => by
  simp only [xtime, BitVec.shiftLeft_xor_distrib, xtimeCarry_xor a b]
  ac_rfl

/-- The running multiple of `xmulStep`, a number below 256, is the symbol `xtime a`. -/
theorem xtime_toNat (a : Symbol) :
    (if (a.toNat <<< 1).testBit 8 then (a.toNat <<< 1) ^^^ Config.poly else a.toNat <<< 1) = (xtime a).toNat := by
  have hbit : (a.toNat <<< 1).testBit 8 = a.msb := by simp [BitVec.msb_eq_getLsbD_last, BitVec.testBit_toNat]
  rw [hbit]
  cases hmsb : a.msb
  case false =>
    have hlt := BitVec.msb_eq_false_iff_two_mul_lt.mp hmsb
    simp [xtime, xtimeCarry, hmsb, Nat.shiftLeft_eq]
    omega
  case true =>
    have hge := BitVec.msb_eq_true_iff_two_mul_ge.mp hmsb
    have hone : a.toNat <<< 1 / 2 ^ 8 = 1 := by
      rw [Nat.shiftLeft_eq]
      omega
    have hhigh : (a.toNat <<< 1 ^^^ Config.poly) / 2 ^ 8 = 0 := by
      rw [Nat.xor_div_two_pow, hone]
      rfl
    have hlt := Nat.lt_of_div_eq_zero (by decide) hhigh
    rw [if_pos rfl, ← Nat.mod_eq_of_lt hlt, Nat.xor_mod_two_pow]
    simp [xtime, xtimeCarry, hmsb]

/-- The term of the product at bit i of `b`. -/
def xmulTerm (a b : Symbol) (i : Nat) : Symbol := if b.getLsbD i then xtime^[i] a else 0#8

theorem xmulStep_eq (b a r : Symbol) (i : Nat) :
    xmulStep b (a.toNat, r) i = ((xtime a).toNat, r ^^^ if b.getLsbD i then a else 0#8) := by
  have hr : (if b.getLsbD i then r ^^^ a else r) = r ^^^ if b.getLsbD i then a else 0#8 := by split <;> simp
  simp only [xmulStep, xtime_toNat, BitVec.ofNat_toNat, BitVec.setWidth_eq, hr]

theorem foldl_xmulStep (a b : Symbol) (n : Nat) :
    (List.range n).foldl (xmulStep b) (a.toNat, 0#8) = ((xtime^[n] a).toNat, xorSum n (xmulTerm a b)) := by
  induction n with
  | zero => rfl
  | succ n ih =>
    rw [List.range_succ, List.foldl_append, ih, List.foldl_cons, List.foldl_nil, xmulStep_eq, xorSum_succ,
      Function.iterate_succ_apply', xmulTerm]

theorem xmul_eq_xorSum (a b : Symbol) : xmul a b = xorSum 8 (xmulTerm a b) :=
  congrArg Prod.snd (foldl_xmulStep a b 8)

theorem xmul_xor_left (b : Symbol) : XorAdditive (fun a => xmul a b) := fun a a' => by
  have hterm : xmulTerm (a ^^^ a') b = fun i => xmulTerm a b i ^^^ xmulTerm a' b i := by
    funext i
    by_cases hi : b.getLsbD i = true
    · simp [xmulTerm, hi, xtime_xor.iterate i a a']
    · simp [xmulTerm, hi]
  simp only [xmul_eq_xorSum, hterm, xorSum_xor]

theorem xmul_xor_right (a : Symbol) : XorAdditive (xmul a) := fun b b' => by
  have hterm : xmulTerm a (b ^^^ b') = fun i => xmulTerm a b i ^^^ xmulTerm a b' i := by
    funext i
    cases hb : b.getLsbD i <;> cases hb' : b'.getLsbD i <;> simp [xmulTerm, hb, hb']
  simp only [xmul_eq_xorSum, hterm, xorSum_xor]

@[simp] theorem xmul_zero_left (b : Symbol) : xmul 0#8 b = 0#8 := (xmul_xor_left b).map_zero

@[simp] theorem xmul_zero_right (a : Symbol) : xmul a 0#8 = 0#8 := (xmul_xor_right a).map_zero

@[simp] theorem xmul_one_right : ∀ a : Symbol, xmul a 1#8 = a :=
  (xmul_xor_left 1#8).eq_of_eq_twoPow (fun _ _ => rfl) (by decide)

/-- Both sides are additive in `a` and in `b`, so the 64 pairs of powers of x decide. -/
theorem xmul_xmul_alpha (a b : Symbol) : xmul a (xmul b Config.alpha) = xmul (xmul a b) Config.alpha := by
  have hα := xmul_xor_left Config.alpha
  refine XorAdditive.eq_of_eq_twoPow ((xmul_xor_right a).comp hα) (hα.comp (xmul_xor_right a)) (fun j => ?_) b
  refine XorAdditive.eq_of_eq_twoPow (xmul_xor_left _) (hα.comp (xmul_xor_left _)) (fun i => ?_) a
  revert i j
  decide

/-! ### Powers of ALPHA (R106) -/

theorem alphaPow_val (i : Fin 255) : alphaPow i.val = alog i := by simp [alphaPow]

theorem alphaPow_congr {m n : Nat} (h : m % 255 = n % 255) : alphaPow m = alphaPow n :=
  congrArg alog (Fin.ext h)

@[simp] theorem alphaPow_zero : alphaPow 0 = 1#8 := alog_zero

theorem alphaPow_succ (n : Nat) : alphaPow (n + 1) = xmul (alphaPow n) Config.alpha := by
  have hsucc : Fin.ofNat 255 (n + 1) = Fin.ofNat 255 n + 1 := Fin.ext (by simp [Fin.val_add])
  rw [alphaPow, hsucc, alog_add_one, alphaPow]

theorem alphaPow_ne_zero (n : Nat) : alphaPow n ≠ 0#8 := alog_ne_zero _

@[simp] theorem log?_alphaPow (n : Nat) : log? (alphaPow n) = some (Fin.ofNat 255 n) := log?_alog _

theorem xmul_alphaPow (m n : Nat) : xmul (alphaPow m) (alphaPow n) = alphaPow (m + n) := by
  induction n with
  | zero => simp
  | succ n ih => rw [alphaPow_succ, xmul_xmul_alpha, ih, ← alphaPow_succ, Nat.add_assoc]

/-- Every symbol is 0 or a power of ALPHA. -/
theorem eq_zero_or_alphaPow (a : Symbol) : a = 0#8 ∨ ∃ m < 255, a = alphaPow m := by
  by_cases ha : a = 0#8
  · exact .inl ha
  · obtain ⟨i, -, hi⟩ := exists_log?_eq_some ha
    exact .inr ⟨i, i.isLt, by rw [alphaPow_val, hi]⟩

theorem exists_eq_alphaPow {a : Symbol} (ha : a ≠ 0#8) : ∃ m < 255, a = alphaPow m :=
  (eq_zero_or_alphaPow a).resolve_left ha

/-! ### The field functions on 0 and on powers of ALPHA (R102 to R105) -/

@[simp] theorem gfMul_zero_left (b : Symbol) : gfMul 0#8 b = 0#8 := rfl

@[simp] theorem gfMul_zero_right (a : Symbol) : gfMul a 0#8 = 0#8 := by
  cases ha : log? a <;> simp [gfMul, ha]

@[simp] theorem gfMul_alphaPow (m n : Nat) : gfMul (alphaPow m) (alphaPow n) = alphaPow (m + n) := by
  simp only [gfMul, log?_alphaPow]
  exact alphaPow_congr (Nat.add_mod m n 255).symm

theorem gfQuot_alphaPow {m n : Nat} (hn : n < 255) :
    gfQuot (alphaPow m) (alphaPow n) = alphaPow (m + (255 - n)) := by
  simp only [gfQuot, log?_alphaPow]
  exact alphaPow_congr (by simp only [Fin.ofNat]; omega)

@[simp] theorem gfInv_zero : gfInv 0#8 = none := rfl

theorem gfInv_alphaPow {m : Nat} (hm : m < 255) : gfInv (alphaPow m) = some (alphaPow (255 - m)) := by
  simp [gfInv, Nat.mod_eq_of_lt hm]

@[simp] theorem gfDiv_zero_right (a : Symbol) : gfDiv a 0#8 = none := rfl

@[simp] theorem gfPow_zero_left (e : Nat) : gfPow 0#8 e = if e = 0 then 1#8 else 0#8 := rfl

@[simp] theorem gfPow_alphaPow (m e : Nat) : gfPow (alphaPow m) e = alphaPow (m * e) := by
  simp only [gfPow, log?_alphaPow]
  exact alphaPow_congr (Nat.mod_mul_mod m e 255)

/-! ### The table product is the product modulo POLY (R108) -/

theorem gfMul_eq_xmul (a b : Symbol) : gfMul a b = xmul a b := by
  rcases eq_zero_or_alphaPow a with rfl | ⟨m, -, rfl⟩
  · simp
  rcases eq_zero_or_alphaPow b with rfl | ⟨n, -, rfl⟩
  · simp
  rw [gfMul_alphaPow, xmul_alphaPow]

/-! ### The laws of the field (R109) -/

theorem gfMul_assoc (a b c : Symbol) : gfMul (gfMul a b) c = gfMul a (gfMul b c) := by
  rcases eq_zero_or_alphaPow a with rfl | ⟨m, -, rfl⟩
  · simp
  rcases eq_zero_or_alphaPow b with rfl | ⟨n, -, rfl⟩
  · simp
  rcases eq_zero_or_alphaPow c with rfl | ⟨k, -, rfl⟩
  · simp
  simp only [gfMul_alphaPow, Nat.add_assoc]

theorem gfMul_comm (a b : Symbol) : gfMul a b = gfMul b a := by
  rcases eq_zero_or_alphaPow a with rfl | ⟨m, -, rfl⟩
  · simp
  rcases eq_zero_or_alphaPow b with rfl | ⟨n, -, rfl⟩
  · simp
  simp only [gfMul_alphaPow, Nat.add_comm]

@[simp] theorem gfMul_one_right (a : Symbol) : gfMul a 1#8 = a := by rw [gfMul_eq_xmul, xmul_one_right]

@[simp] theorem gfMul_one_left (a : Symbol) : gfMul 1#8 a = a := by rw [gfMul_comm, gfMul_one_right]

theorem gfMul_gfAdd (a b c : Symbol) : gfMul a (gfAdd b c) = gfAdd (gfMul a b) (gfMul a c) := by
  simp only [gfMul_eq_xmul]
  exact xmul_xor_right a b c

theorem gfMul_ne_zero {a b : Symbol} (ha : a ≠ 0#8) (hb : b ≠ 0#8) : gfMul a b ≠ 0#8 := by
  obtain ⟨m, -, rfl⟩ := exists_eq_alphaPow ha
  obtain ⟨n, -, rfl⟩ := exists_eq_alphaPow hb
  rw [gfMul_alphaPow]
  exact alphaPow_ne_zero _

/-- A non-zero symbol has an inverse, and dividing by it is multiplying by the inverse. -/
theorem exists_gfInv {a : Symbol} (ha : a ≠ 0#8) :
    ∃ v, gfInv a = some v ∧ gfMul a v = 1#8 ∧ ∀ b, gfDiv b a = some (gfMul b v) := by
  obtain ⟨m, hm, rfl⟩ := exists_eq_alphaPow ha
  refine ⟨alphaPow (255 - m), gfInv_alphaPow hm, ?_, fun b => ?_⟩
  · rw [gfMul_alphaPow, Nat.add_sub_cancel' hm.le]
    rfl
  · rw [gfDiv, if_neg ha]
    rcases eq_zero_or_alphaPow b with rfl | ⟨n, -, rfl⟩
    · rfl
    · rw [gfQuot_alphaPow hm, gfMul_alphaPow]

/-- The quotient by a non-zero symbol is the one symbol whose product with the divisor is the dividend. -/
theorem exists_gfDiv (a : Symbol) {b : Symbol} (hb : b ≠ 0#8) :
    ∃ q, gfDiv a b = some q ∧ ∀ x, gfMul x b = a ↔ x = q := by
  obtain ⟨v, -, hv, hdiv⟩ := exists_gfInv hb
  refine ⟨gfMul a v, hdiv a, fun x => ⟨?_, ?_⟩⟩
  · rintro rfl
    rw [gfMul_assoc, hv, gfMul_one_right]
  · rintro rfl
    rw [gfMul_assoc, gfMul_comm v b, hv, gfMul_one_right]

@[simp] theorem gfPow_zero_right (a : Symbol) : gfPow a 0 = 1#8 := by
  rcases eq_zero_or_alphaPow a with rfl | ⟨m, -, rfl⟩ <;> simp

@[simp] theorem gfPow_one_right (a : Symbol) : gfPow a 1 = a := by
  rcases eq_zero_or_alphaPow a with rfl | ⟨m, -, rfl⟩ <;> simp

theorem gfPow_add (a : Symbol) (e f : Nat) : gfPow a (e + f) = gfMul (gfPow a e) (gfPow a f) := by
  rcases eq_zero_or_alphaPow a with rfl | ⟨m, -, rfl⟩
  · by_cases he : e = 0 <;> simp [he]
  · simp only [gfPow_alphaPow, gfMul_alphaPow, Nat.mul_add]

theorem gfPow_255 {a : Symbol} (ha : a ≠ 0#8) : gfPow a 255 = 1#8 := by
  obtain ⟨m, -, rfl⟩ := exists_eq_alphaPow ha
  rw [gfPow_alphaPow, ← alphaPow_zero]
  exact alphaPow_congr (by omega)

theorem gfInv_eq_gfPow_254 {a : Symbol} (ha : a ≠ 0#8) : gfInv a = some (gfPow a 254) := by
  obtain ⟨m, hm, rfl⟩ := exists_eq_alphaPow ha
  rw [gfInv_alphaPow hm, gfPow_alphaPow]
  exact congrArg some (alphaPow_congr (by omega))

theorem gfPow_eq_xpow (a : Symbol) (e : Nat) : gfPow a e = xpow a e := by
  induction e with
  | zero => exact gfPow_zero_right a
  | succ e ih => rw [gfPow_add, ih, gfPow_one_right, gfMul_eq_xmul, xpow]

/-! ### The commands: their words and their ends (R110 to R115) -/

theorem operandsSSS_wordR (f : SReg → SReg → SReg → Instr) (op : BitVec 8) (d a b : SReg) :
    operandsSSS f (wordR op (specS d) (specS a) (specS b) 0#4) = .ok (f d a b) := by
  simp [operandsSSS, Bind.bind, Except.bind, pure, Except.pure]

theorem decode_wordR_of_operandsSSS {f : SReg → SReg → SReg → Instr} {op : BitVec 8}
    (hop : decodeOp op = operandsSSS f) (hwf : ∀ d a b, wellFormed (f d a b) = true) (d a b : SReg) :
    decode (wordR op (specS d) (specS a) (specS b) 0#4) = .ok (f d a b) :=
  decode_eq_ok.mpr ⟨by rw [opField_wordR, hop, operandsSSS_wordR], hwf d a b⟩

theorem decodeOp_gfPow (w : Word) :
    decodeOp 0x24#8 w = .ok (.gfPow (symReg (dField w)) (symReg (aField w)) (immField w)) := rfl

theorem decode_gfPow_word (d a : SReg) (e : Imm) :
    decode (wordI 0x24#8 (specS d) (specS a) e) = .ok (.gfPow d a e) :=
  decode_eq_ok.mpr ⟨by simp [decodeOp_gfPow], rfl⟩

theorem decodeOp_gfInv {w : Word} (hlow : lowField w = 0#8) (hb : bField w = 0#4) (hc : cField w = 0#4) :
    decodeOp 0x25#8 w = .ok (.gfInv (symReg (dField w)) (symReg (aField w))) := by
  change (do mustBeZero (lowField w); mustBeZero (bField w); mustBeZero (cField w); _) = _
  simp [hlow, hb, hc, Bind.bind, Except.bind, pure, Except.pure]

theorem decode_gfInv_word (d a : SReg) : decode (wordR 0x25#8 (specS d) (specS a) 0#4 0#4) = .ok (.gfInv d a) :=
  decode_eq_ok.mpr ⟨by simp [decodeOp_gfInv], rfl⟩

theorem exec_gfDiv_of_none {d a b : SReg} {s : State} (h : gfDiv (readS a s) (readS b s) = none) :
    exec (.gfDiv d a b) s = raise .div0 s := by
  simp only [exec, execGfDiv, h]

theorem exec_gfDiv_of_some {d a b : SReg} {s : State} {q : Symbol} (h : gfDiv (readS a s) (readS b s) = some q) :
    exec (.gfDiv d a b) s = done 0#16 (writeS d q s) := by
  simp only [exec, execGfDiv, h]

theorem exec_gfInv_of_none {d a : SReg} {s : State} (h : gfInv (readS a s) = none) :
    exec (.gfInv d a) s = raise .div0 s := by
  simp only [exec, execGfInv, h]

theorem exec_gfInv_of_some {d a : SReg} {s : State} {v : Symbol} (h : gfInv (readS a s) = some v) :
    exec (.gfInv d a) s = done 0#16 (writeS d v s) := by
  simp only [exec, execGfInv, h]

/-! ### The obligations -/

/-- Settles O31: the tables multiply powers of ALPHA by adding exponents, and so does the product modulo POLY. -/
theorem mulIsShiftReduceProduct : Obligations.MulIsShiftReduceProduct := gfMul_eq_xmul

/-- Settles O32: the additive laws are those of XOR, the others are the lemmas above. -/
theorem fieldLaws : Obligations.FieldLaws :=
  ⟨fun a b c => ⟨BitVec.xor_assoc a b c, BitVec.xor_comm a b, BitVec.xor_zero, BitVec.xor_self, rfl⟩,
    fun a b c => ⟨gfMul_assoc a b c, gfMul_comm a b, gfMul_one_right a, gfMul_zero_right a, gfMul_gfAdd a b c⟩,
    fun _ _ => gfMul_ne_zero, fun _ => exists_gfInv, gfInv_zero, gfDiv_zero_right,
    fun a => ⟨gfPow_zero_right a, gfPow_one_right a⟩, gfPow_add,
    fun _ ha => ⟨gfPow_255 ha, gfInv_eq_gfPow_254 ha⟩⟩

/-- Settles O33: both commands end in `done` on the same write. -/
theorem gfAddAndGfSubCommands : Obligations.GfAddAndGfSubCommands := fun d a b _ =>
  ⟨decode_wordR_of_operandsSSS rfl (fun _ _ _ => rfl) d a b,
    decode_wordR_of_operandsSSS rfl (fun _ _ _ => rfl) d a b,
    done_eq _ _, done_eq _ _⟩

/-- Settles O34: the command writes the table product, which is the product modulo POLY. -/
theorem gfMulCommand : Obligations.GfMulCommand := by
  intro d a b s
  have hmul := gfMul_eq_xmul (readS a s) (readS b s)
  refine ⟨decode_wordR_of_operandsSSS rfl (fun _ _ _ => rfl) d a b, ?_, hmul⟩
  rw [← hmul]
  exact done_eq _ _

/-- Settles O35: a divisor 0 ends in `raise`; any other has exactly one quotient. -/
theorem gfDivCommand : Obligations.GfDivCommand := by
  intro d a b s
  refine ⟨decode_wordR_of_operandsSSS rfl (fun _ _ _ => rfl) d a b, fun hb => ?_,
    fun hb => ?_⟩
  · exact exec_gfDiv_of_none (by rw [hb, gfDiv_zero_right])
  · obtain ⟨q, hq, hunique⟩ := exists_gfDiv (readS a s) hb
    simp only [gfMul_eq_xmul] at hunique
    exact ⟨q, hq, (hunique q).mpr rfl, fun x => (hunique x).mp, exec_gfDiv_of_some hq⟩

/-- Settles O36: the command writes the table power, which is the e-fold product. -/
theorem gfPowCommand : Obligations.GfPowCommand := by
  intro d a e s
  have hpow := gfPow_eq_xpow (readS a s) e.toNat
  refine ⟨decode_gfPow_word d a e, ?_, hpow⟩
  rw [← hpow]
  exact done_eq _ _

/-- Settles O37: a source 0 ends in `raise`; any other has an inverse. -/
theorem gfInvCommand : Obligations.GfInvCommand := by
  intro d a s
  refine ⟨decode_gfInv_word d a, fun ha => ?_, fun ha => ?_⟩
  · exact exec_gfInv_of_none (by rw [ha, gfInv_zero])
  · obtain ⟨v, hv, hone, -⟩ := exists_gfInv ha
    exact ⟨v, hv, by rw [← gfMul_eq_xmul, hone], exec_gfInv_of_some hv⟩

end Sys2Proof.Machine
end

section
/-! Polynomial Algebra (spec/41_polynomial.md R130 to R145). A polynomial acts on sequences of weights: `weightedSum p f` is
the sum over e of coef(p, e)·f(e). A coefficient is the sum for the weight that is 1 at one exponent, evaluation the sum
for the powers of the point, and a polynomial is known by its length and its sums. So each function has one rule, how it
acts on every weight, and the laws, the convolution and the division identity are read off these rules. -/

namespace Sys2Proof.Machine

/-! ### Weighted sums of coefficients -/

/-- The sum over e of coef(p, e)·f(e). -/
def weightedSum : Poly → (Nat → Symbol) → Symbol
  | [], _ => 0#8
  | x :: p, f => gfMul x (f p.length) ^^^ weightedSum p f

@[simp] theorem weightedSum_nil (f : Nat → Symbol) : weightedSum [] f = 0#8 := rfl

@[simp] theorem weightedSum_cons (x : Symbol) (p : Poly) (f : Nat → Symbol) :
    weightedSum (x :: p) f = gfMul x (f p.length) ^^^ weightedSum p f := rfl

theorem gfMul_xor_right (a b c : Symbol) : gfMul a (b ^^^ c) = gfMul a b ^^^ gfMul a c := gfMul_gfAdd a b c

theorem gfMul_xor_left (a b c : Symbol) : gfMul (a ^^^ b) c = gfMul a c ^^^ gfMul b c := by
  simp only [gfMul_comm _ c, gfMul_xor_right]

theorem gfMul_left_comm (a b c : Symbol) : gfMul a (gfMul b c) = gfMul b (gfMul a c) := by
  rw [← gfMul_assoc, gfMul_comm a b, gfMul_assoc]

@[simp] theorem weightedSum_zero (p : Poly) : weightedSum p (fun _ => 0#8) = 0#8 := by
  induction p with
  | nil => rfl
  | cons x p ih => simp [ih]

theorem weightedSum_xor (p : Poly) (f g : Nat → Symbol) :
    weightedSum p (fun e => f e ^^^ g e) = weightedSum p f ^^^ weightedSum p g := by
  induction p with
  | nil => simp
  | cons x p ih => simp only [weightedSum_cons, ih, gfMul_xor_right]; ac_rfl

theorem weightedSum_gfMul (p : Poly) (c : Symbol) (f : Nat → Symbol) :
    weightedSum p (fun e => gfMul c (f e)) = gfMul c (weightedSum p f) := by
  induction p with
  | nil => simp
  | cons x p ih => simp only [weightedSum_cons, ih, gfMul_xor_right, gfMul_left_comm x c]

/-- Double sums are exchanged. -/
theorem weightedSum_comm (a b : Poly) (f : Nat → Nat → Symbol) :
    weightedSum a (fun i => weightedSum b (fun j => f i j)) = weightedSum b (fun j => weightedSum a (fun i => f i j)) := by
  induction a with
  | nil => simp
  | cons x a ih => simp only [weightedSum_cons, ih, weightedSum_xor, weightedSum_gfMul]

/-! ### XOR sums with terms that are 0 -/

theorem xorSum_congr {n : Nat} {f g : Nat → Symbol} (h : ∀ i < n, f i = g i) : xorSum n f = xorSum n g := by
  induction n with
  | zero => rfl
  | succ n ih => rw [xorSum_succ, xorSum_succ, ih fun i hi => h i (Nat.lt_succ_of_lt hi), h n n.lt_succ_self]

/-- A sum in which one term alone may be other than 0. -/
theorem xorSum_eq_ite_of_eq_zero {n j : Nat} {f : Nat → Symbol} (h : ∀ i ≠ j, f i = 0#8) :
    xorSum n f = if j < n then f j else 0#8 := by
  induction n with
  | zero => simp
  | succ n ih =>
    rw [xorSum_succ, ih]
    rcases Nat.lt_trichotomy j n with hlt | rfl | hgt
    · simp [hlt, Nat.lt_succ_of_lt hlt, h n hlt.ne']
    · simp
    · simp [Nat.not_lt.mpr hgt.le, Nat.not_lt.mpr (Nat.succ_le_of_lt hgt), h n hgt.ne]

/-! ### Coefficients and equality of sequences (R13) -/

/-- The weight that is 1 at exponent `e` and 0 elsewhere. -/
def unitWeight (e i : Nat) : Symbol := if i = e then 1#8 else 0#8

@[simp] theorem unitWeight_self (e : Nat) : unitWeight e e = 1#8 := if_pos rfl

theorem unitWeight_add (e i j : Nat) : unitWeight e (i + j) = if i ≤ e then unitWeight (e - i) j else 0#8 := by
  by_cases hi : i ≤ e
  · have hiff : i + j = e ↔ j = e - i := by omega
    simp [unitWeight, hi, hiff]
  · have hne : i + j ≠ e := by omega
    simp [unitWeight, hi, hne]

theorem coef_of_length_le {p : Poly} {e : Nat} (h : p.length ≤ e) : coef p e = 0#8 := if_neg (Nat.not_lt.mpr h)

theorem coef_cons (x : Symbol) (p : Poly) (e : Nat) : coef (x :: p) e = if e = p.length then x else coef p e := by
  rcases Nat.lt_trichotomy e p.length with hlt | rfl | hgt
  · have hindex : p.length - e = p.length - 1 - e + 1 := by omega
    simp [coef, hlt, hlt.ne, Nat.lt_succ_of_lt hlt, hindex]
  · simp [coef]
  · rw [if_neg hgt.ne', coef_of_length_le hgt.le, coef_of_length_le (by simpa using hgt)]

theorem weightedSum_unitWeight (p : Poly) (e : Nat) : weightedSum p (unitWeight e) = coef p e := by
  induction p with
  | nil => rfl
  | cons x p ih =>
    rw [weightedSum_cons, ih, coef_cons]
    by_cases he : e = p.length
    · subst he
      simp [coef_of_length_le]
    · simp [unitWeight, he, Ne.symm he]

/-- The weighted sum written out, over any range outside which the terms are 0. -/
theorem weightedSum_eq_xorSum {p : Poly} {n : Nat} {f : Nat → Symbol}
    (h : ∀ e, n ≤ e → gfMul (coef p e) (f e) = 0#8) : weightedSum p f = xorSum n (fun e => gfMul (coef p e) (f e)) := by
  induction p with
  | nil => simp [coef, xorSum_eq_ite_of_eq_zero (n := n) (j := n)]
  | cons x p ih =>
    have hsplit : ∀ e, coef (x :: p) e = (if e = p.length then x else 0#8) ^^^ coef p e := by
      intro e
      rw [coef_cons]
      split
      · next he => simp [he, coef_of_length_le]
      · simp
    have htail : ∀ e, n ≤ e → gfMul (coef p e) (f e) = 0#8 := by
      intro e he
      rcases eq_or_ne e p.length with rfl | hne
      · simp [coef_of_length_le]
      · simpa [coef_cons, hne] using h e he
    have hhead : xorSum n (fun e => gfMul (if e = p.length then x else 0#8) (f e)) = gfMul x (f p.length) := by
      rw [xorSum_eq_ite_of_eq_zero (j := p.length) (fun e he => by simp [he])]
      split
      · simp
      · next hn => simpa [coef_cons] using (h p.length (Nat.not_lt.mp hn)).symm
    simp only [weightedSum_cons, ih htail, hsplit, gfMul_xor_left, xorSum_xor, hhead]

theorem eq_of_weightedSum_eq {p q : Poly} (hlen : p.length = q.length)
    (h : ∀ f, weightedSum p f = weightedSum q f) : p = q := by
  induction p generalizing q with
  | nil => exact (List.length_eq_zero_iff.mp hlen.symm).symm
  | cons x p ih =>
    cases q with
    | nil => simp at hlen
    | cons y q =>
      have hpq : p.length = q.length := by simpa using hlen
      have hxy : x = y := by simpa [weightedSum_unitWeight, coef_cons, hpq] using h (unitWeight q.length)
      subst hxy
      rw [ih hpq fun f => by simpa [hpq] using h f]

/-! ### What each function does to a weighted sum (R130 to R135) -/

@[simp] theorem weightedSum_zeros_append (n : Nat) (p : Poly) (f : Nat → Symbol) :
    weightedSum (zeros n ++ p) f = weightedSum p f := by
  induction n with
  | zero => rfl
  | succ n ih => rw [zeros, List.replicate_succ, List.cons_append, weightedSum_cons, ih]; simp

@[simp] theorem weightedSum_zeros (n : Nat) (f : Nat → Symbol) : weightedSum (zeros n) f = 0#8 := by
  simpa using weightedSum_zeros_append n [] f

theorem weightedSum_zipWith_gfAdd {p q : Poly} (h : p.length = q.length) (f : Nat → Symbol) :
    weightedSum (List.zipWith gfAdd p q) f = weightedSum p f ^^^ weightedSum q f := by
  induction p generalizing q with
  | nil => simp [List.length_eq_zero_iff.mp h.symm]
  | cons x p ih =>
    cases q with
    | nil => simp at h
    | cons y q =>
      have hpq : p.length = q.length := by simpa using h
      simp only [List.zipWith_cons_cons, weightedSum_cons, ih hpq, List.length_zipWith, hpq, min_self, gfAdd,
        gfMul_xor_left]
      ac_rfl

@[simp] theorem weightedSum_polyAdd (a b : Poly) (f : Nat → Symbol) :
    weightedSum (polyAdd a b) f = weightedSum a f ^^^ weightedSum b f := by
  rw [polyAdd, weightedSum_zipWith_gfAdd (by simp [padLeft_length]), padLeft, padLeft, weightedSum_zeros_append,
    weightedSum_zeros_append]

@[simp] theorem weightedSum_scale (c : Symbol) (p : Poly) (f : Nat → Symbol) :
    weightedSum (scale c p) f = gfMul c (weightedSum p f) := by
  induction p with
  | nil => simp [scale]
  | cons x p ih =>
    rw [scale] at ih
    simp only [scale, List.map_cons, weightedSum_cons, List.length_map, ih, gfMul_xor_right, gfMul_assoc]

/-- `v` stands at the front of `w`, so its exponents are raised by the difference of the lengths. -/
theorem weightedSum_xorPrefix {w v : Poly} {k : Nat} (h : w.length = k + v.length) (f : Nat → Symbol) :
    weightedSum (xorPrefix w v) f = weightedSum w f ^^^ weightedSum v (fun i => f (k + i)) := by
  fun_induction xorPrefix w v with
  | case1 x w y v ih =>
    have hwv : w.length = k + v.length := by simpa [← Nat.add_assoc] using h
    simp only [weightedSum_cons, xorPrefix_length, ih hwv, hwv, gfAdd, gfMul_xor_left]
    ac_rfl
  | case2 w => simp
  | case3 y v => simp at h

theorem weightedSum_polyMulRows (a b : Poly) (hb : b ≠ []) (f : Nat → Symbol) :
    weightedSum (polyMulRows a b) f = weightedSum a (fun i => weightedSum b (fun j => f (i + j))) := by
  induction a with
  | nil => simp [polyMulRows]
  | cons x a ih =>
    have hpos : b.length ≠ 0 := by simpa using hb
    have hlen : (0#8 :: polyMulRows a b).length = a.length + (scale x b).length := by
      simp [polyMulRows_length a b hpos]
      omega
    rw [polyMulRows, weightedSum_xorPrefix hlen, weightedSum_cons, ih, weightedSum_scale, weightedSum_cons,
      gfMul_zero_left, BitVec.zero_xor, BitVec.xor_comm]

@[simp] theorem weightedSum_polyMul (a b : Poly) (f : Nat → Symbol) :
    weightedSum (polyMul a b) f = weightedSum a (fun i => weightedSum b (fun j => f (i + j))) := by
  unfold polyMul
  split
  · next h =>
    rcases h with ha | hb
    · simp [List.length_eq_zero_iff.mp ha]
    · simp [List.length_eq_zero_iff.mp hb]
  · next h => exact weightedSum_polyMulRows a b (fun hb => h (.inr (by simp [hb]))) f

theorem polyEval_eq_weightedSum (p : Poly) (x : Symbol) : polyEval p x = weightedSum p (gfPow x) := by
  have hhorner : ∀ acc, p.foldl (fun acc c => gfAdd (gfMul acc x) c) acc =
      gfMul acc (gfPow x p.length) ^^^ weightedSum p (gfPow x) := by
    induction p with
    | nil => simp
    | cons c p ih =>
      intro acc
      rw [List.foldl_cons, ih, weightedSum_cons, List.length_cons, Nat.add_comm, gfPow_add, gfPow_one_right, gfAdd,
        gfMul_xor_left, gfMul_assoc, BitVec.xor_assoc]
  simpa [polyEval] using hhorner 0#8

/-! ### Division (R133) -/

theorem gfMul_gfQuot {b : Symbol} (hb : b ≠ 0#8) (a : Symbol) : gfMul (gfQuot a b) b = a := by
  obtain ⟨q, hq, hunique⟩ := exists_gfDiv a hb
  rw [gfDiv, if_neg hb, Option.some.injEq] at hq
  exact (hunique _).mpr hq

theorem xor_xor_xor_cancel (a b t : Symbol) : a ^^^ t ^^^ (b ^^^ t) = a ^^^ b := by
  rw [BitVec.xor_comm b, BitVec.xor_assoc, ← BitVec.xor_assoc t, BitVec.xor_self, BitVec.zero_xor]

/-- Each turn of the loop takes a multiple of the divisor off the front of the working copy. -/
theorem weightedSum_polyDivLoop {b0 : Symbol} (hb : b0 ≠ 0#8) (b : Poly) {nq : Nat} {w : Poly}
    (h : w.length = nq + b.length) (f : Nat → Symbol) :
    weightedSum (polyDivLoop (b0 :: b) nq w).1 (fun i => weightedSum (b0 :: b) (fun j => f (i + j))) ^^^
      weightedSum (polyDivLoop (b0 :: b) nq w).2 f = weightedSum w f := by
  induction nq generalizing w with
  | zero => simp [polyDivLoop]
  | succ n ih =>
    cases w with
    | nil => exact absurd h (by simp; omega)
    | cons x w =>
      have hw : w.length = n + b.length := by simp at h; omega
      have hlead := gfMul_gfQuot hb x
      have hrest : (xorPrefix w (scale (gfQuot x b0) b)).length = n + b.length := by rw [xorPrefix_length, hw]
      obtain ⟨hlen, -⟩ := polyDivLoop_length (b0 :: b) n _ (hrest ▸ Nat.le_add_right n b.length)
      have hsum := ih hrest
      rw [weightedSum_xorPrefix (by rw [scale_length, hw]), weightedSum_scale] at hsum
      simp only [polyDivLoop, List.headD_cons, List.tail_cons]
      rw [weightedSum_cons, BitVec.xor_assoc, hsum, hlen, weightedSum_cons, gfMul_xor_right, ← gfMul_assoc, hlead,
        xor_xor_xor_cancel, weightedSum_cons, hw]

theorem polyMul_polyLongDiv_polyAdd (a : Poly) {b : Poly} (hb : b.headD 0#8 ≠ 0#8) :
    polyAdd (polyMul (polyLongDiv a b).1 b) (polyLongDiv a b).2 = a := by
  cases b with
  | nil => exact absurd rfl hb
  | cons b0 b =>
    obtain ⟨hq, hr⟩ := polyLongDiv_length a (b0 :: b) (by simp)
    apply eq_of_weightedSum_eq
    · rw [polyAdd_length, polyMul_length, hq, hr]
      simp only [List.length_cons]
      grind
    · intro f
      rw [weightedSum_polyAdd, weightedSum_polyMul]
      unfold polyLongDiv
      split
      · simp
      · next hlen => exact weightedSum_polyDivLoop hb b (by simp at hlen ⊢; omega) f

theorem polyDivmod_of_headD_eq_zero (a : Poly) {b : Poly} (hb : b.headD 0#8 = 0#8) : polyDivmod a b = none := by
  rw [polyDivmod, badDivisor, if_pos (decide_eq_true hb)]

theorem polyDivmod_of_headD_ne_zero (a : Poly) {b : Poly} (hb : b.headD 0#8 ≠ 0#8) :
    polyDivmod a b = some (polyLongDiv a b) := by
  rw [polyDivmod, badDivisor, decide_eq_false hb, if_neg Bool.false_ne_true]

/-- The division identity for whatever `polyDivmod` answers (R136). -/
theorem polyDivmod_identity {a b q r : Poly} (h : polyDivmod a b = some (q, r)) :
    polyAdd (polyMul q b) r = a := by
  obtain ⟨hb, hqr⟩ := polyDivmod_some h
  have hidentity := polyMul_polyLongDiv_polyAdd a (b := b) (of_decide_eq_false hb)
  rwa [← hqr] at hidentity

theorem polyMod_of_polyDivmod {a b q r : Poly} (h : polyDivmod a b = some (q, r)) : polyMod a b = some r := by
  rw [polyMod, h, Option.map_some]

/-! ### The laws (R138) -/

theorem polyAdd_assoc (a b c : Poly) : polyAdd (polyAdd a b) c = polyAdd a (polyAdd b c) :=
  eq_of_weightedSum_eq (by simp [max_assoc]) fun f => by simp [BitVec.xor_assoc]

theorem polyAdd_comm (a b : Poly) : polyAdd a b = polyAdd b a :=
  eq_of_weightedSum_eq (by simp [max_comm]) fun f => by simp [BitVec.xor_comm]

theorem polyMul_assoc (a b c : Poly) : polyMul (polyMul a b) c = polyMul a (polyMul b c) :=
  eq_of_weightedSum_eq (by simp only [polyMul_length]; grind) fun f => by simp [Nat.add_assoc]

theorem polyMul_comm (a b : Poly) : polyMul a b = polyMul b a :=
  eq_of_weightedSum_eq (by simp only [polyMul_length]; grind) fun f => by
    rw [weightedSum_polyMul, weightedSum_polyMul, weightedSum_comm]
    simp only [Nat.add_comm]

theorem polyMul_polyAdd (a b c : Poly) : polyMul a (polyAdd b c) = polyAdd (polyMul a b) (polyMul a c) :=
  eq_of_weightedSum_eq (by simp only [polyMul_length, polyAdd_length]; grind) fun f => by simp [weightedSum_xor]

theorem polyEval_polyAdd (a b : Poly) (x : Symbol) : polyEval (polyAdd a b) x = polyEval a x ^^^ polyEval b x := by
  simp only [polyEval_eq_weightedSum, weightedSum_polyAdd]

theorem polyEval_polyMul (a b : Poly) (x : Symbol) :
    polyEval (polyMul a b) x = gfMul (polyEval a x) (polyEval b x) := by
  simp only [polyEval_eq_weightedSum, weightedSum_polyMul, gfPow_add, weightedSum_gfMul]
  simp only [gfMul_comm _ (weightedSum b _), weightedSum_gfMul]

theorem polyEval_remainder {a b q r : Poly} {x : Symbol} (h : polyDivmod a b = some (q, r))
    (hx : polyEval b x = 0#8) : polyEval a x = polyEval r x := by
  rw [← polyDivmod_identity h, polyEval_polyAdd, polyEval_polyMul, hx, gfMul_zero_right, BitVec.zero_xor]

/-! ### Coefficients and values as sums (R130, R132, R135) -/

theorem coef_polyAdd (a b : Poly) (e : Nat) : coef (polyAdd a b) e = coef a e ^^^ coef b e := by
  simp only [← weightedSum_unitWeight, weightedSum_polyAdd]

theorem coef_polyMul (a b : Poly) (e : Nat) :
    coef (polyMul a b) e = xorSum (e + 1) (fun i => xmul (coef a i) (coef b (e - i))) := by
  have hinner : ∀ i, weightedSum b (fun j => unitWeight e (i + j)) = if i ≤ e then coef b (e - i) else 0#8 := by
    intro i
    simp only [unitWeight_add]
    split
    · exact weightedSum_unitWeight b (e - i)
    · exact weightedSum_zero b
  rw [← weightedSum_unitWeight, weightedSum_polyMul]
  simp only [hinner]
  rw [weightedSum_eq_xorSum (n := e + 1)]
  · exact xorSum_congr fun i hi => by rw [if_pos (Nat.le_of_lt_succ hi), gfMul_eq_xmul]
  · intro i hi
    rw [if_neg (Nat.not_le.mpr hi), gfMul_zero_right]

theorem polyEval_eq_xorSum (p : Poly) (x : Symbol) :
    polyEval p x = xorSum p.length (fun e => xmul (coef p e) (xpow x e)) := by
  rw [polyEval_eq_weightedSum, weightedSum_eq_xorSum (n := p.length) fun e he => by simp [coef_of_length_le he]]
  simp only [gfMul_eq_xmul, gfPow_eq_xpow]

/-! ### The commands: their words and their ends (R139 to R145) -/

theorem operandsPPP_wordR (f : PReg → PReg → PReg → Instr) (op : BitVec 8) (d a b : PReg) :
    operandsPPP f (wordR op (specP d) (specP a) (specP b) 0#4) = .ok (f d a b) := by
  simp [operandsPPP, Bind.bind, Except.bind, pure, Except.pure]

theorem operandsPPPP_wordR (f : PReg → PReg → PReg → PReg → Instr) (op : BitVec 8) (d a b c : PReg) :
    operandsPPPP f (wordR op (specP d) (specP a) (specP b) (specP c)) = .ok (f d a b c) := by
  simp [operandsPPPP, Bind.bind, Except.bind, pure, Except.pure]

theorem decode_wordR_of_operandsPPP {f : PReg → PReg → PReg → Instr} {op : BitVec 8}
    (hop : decodeOp op = operandsPPP f) (hwf : ∀ d a b, wellFormed (f d a b) = true) (d a b : PReg) :
    decode (wordR op (specP d) (specP a) (specP b) 0#4) = .ok (f d a b) :=
  decode_eq_ok.mpr ⟨by rw [opField_wordR, hop, operandsPPP_wordR], hwf d a b⟩

theorem decode_pDiv_word (d a b c : PReg) :
    decode (wordR 0x43#8 (specP d) (specP a) (specP b) (specP c)) = checkOperands (.pDiv d a b c) := by
  have hop : decodeOp 0x43#8 = operandsPPPP .pDiv := rfl
  rw [decode, opField_wordR, hop, operandsPPPP_wordR]
  rfl

theorem checkOperands_pDiv (d a b c : PReg) :
    checkOperands (.pDiv d a b c) = if d = c then .error .sameDestinations else .ok (.pDiv d a b c) := by
  by_cases h : d = c <;> simp [checkOperands, wellFormed, h]

theorem decodeOp_pEval {w : Word} {a : PReg} (hlow : lowField w = 0#8) (hc : cField w = 0#4)
    (ha : polyReg (aField w) = .ok a) :
    decodeOp 0x45#8 w = .ok (.pEval (symReg (dField w)) a (symReg (bField w))) := by
  change (do mustBeZero (lowField w); mustBeZero (cField w); _) = _
  simp [hlow, hc, ha, Bind.bind, Except.bind, pure, Except.pure]

theorem decode_pEval_word (d : SReg) (a : PReg) (b : SReg) :
    decode (wordR 0x45#8 (specS d) (specP a) (specS b) 0#4) = .ok (.pEval d a b) :=
  decode_eq_ok.mpr ⟨by rw [opField_wordR, decodeOp_pEval (a := a)] <;> simp, rfl⟩

theorem productTooLong_iff (a b : Poly) :
    productTooLong a b = true ↔ a ≠ [] ∧ b ≠ [] ∧ 512 < a.length + b.length - 1 := by
  simp [productTooLong, Nat.one_le_iff_ne_zero]

theorem exec_pMul (d a b : PReg) (s : State) :
    exec (.pMul d a b) s = if productTooLong (readP a s) (readP b s) then raise .range s
      else done 0#16 (writeP d (polyMul (readP a s) (readP b s)) s) := rfl

theorem exec_pDiv_same (d a b : PReg) (s : State) : exec (.pDiv d a b d) s = raise .illegal s := by
  simp only [exec, execPDiv, if_true]

theorem exec_pDiv_of_none {d a b c : PReg} {s : State} (hdc : d ≠ c)
    (h : polyDivmod (readP a s) (readP b s) = none) : exec (.pDiv d a b c) s = raise .div0 s := by
  simp only [exec, execPDiv, hdc, if_false, h]

theorem exec_pDiv_of_some {d a b c : PReg} {s : State} {q r : Poly} (hdc : d ≠ c)
    (h : polyDivmod (readP a s) (readP b s) = some (q, r)) :
    exec (.pDiv d a b c) s = done 0#16 (writeP c r (writeP d q s)) := by
  simp only [exec, execPDiv, hdc, if_false, h]

theorem exec_pMod_of_none {d a b : PReg} {s : State} (h : polyMod (readP a s) (readP b s) = none) :
    exec (.pMod d a b) s = raise .div0 s := by
  simp only [exec, execPMod, h]

theorem exec_pMod_of_some {d a b : PReg} {s : State} {r : Poly} (h : polyMod (readP a s) (readP b s) = some r) :
    exec (.pMod d a b) s = done 0#16 (writeP d r s) := by
  simp only [exec, execPMod, h]

/-! ### The obligations -/

/-- Settles O38: both commands end in `done` on the same write. -/
theorem pAddAndPSubCommands : Obligations.PAddAndPSubCommands := fun d a b s =>
  ⟨decode_wordR_of_operandsPPP rfl (fun _ _ _ => rfl) d a b,
    decode_wordR_of_operandsPPP rfl (fun _ _ _ => rfl) d a b,
    polyAdd (readP a s) (readP b s), rfl, rfl, polyAdd_length _ _, coef_polyAdd _ _, done_eq _ _, done_eq _ _⟩

/-- Settles O39: a product that is too long ends in `raise`; any other is written, and its coefficients are the
convolution. -/
theorem pMulCommand : Obligations.PMulCommand := by
  intro d a b s
  refine ⟨decode_wordR_of_operandsPPP rfl (fun _ _ _ => rfl) d a b, fun hlong => ?_, fun hfits => ?_⟩
  · rw [exec_pMul, if_pos ((productTooLong_iff _ _).mpr hlong), raise_eq]
  · refine ⟨_, rfl, ?_, coef_polyMul _ _, ?_⟩
    · simpa only [List.length_eq_zero_iff] using polyMul_length (readP a s) (readP b s)
    · rw [exec_pMul, if_neg fun h => hfits ((productTooLong_iff _ _).mp h), done_eq]

/-- Settles O40: equal destinations and a bad divisor end in `raise`; otherwise the long division is written, which
satisfies the identity. -/
theorem pDivCommand : Obligations.PDivCommand := by
  intro d a b c s
  refine ⟨?_, fun hdc => ?_, fun hdc hb => ?_, fun hdc hb => ?_⟩
  · rintro rfl
    exact ⟨by rw [decode_pDiv_word, checkOperands_pDiv, if_pos rfl], exec_pDiv_same d a b s⟩
  · rw [decode_pDiv_word, checkOperands_pDiv, if_neg hdc]
  · exact exec_pDiv_of_none hdc (polyDivmod_of_headD_eq_zero _ hb)
  · have hdiv := polyDivmod_of_headD_ne_zero (readP a s) hb
    obtain ⟨hq, hr⟩ := polyLongDiv_length (readP a s) (readP b s)
      (length_ne_zero_of_not_badDivisor (polyDivmod_some hdiv).1)
    exact ⟨_, _, hdiv, hq, hr, polyDivmod_identity hdiv, exec_pDiv_of_some hdc hdiv⟩

/-- Settles O41: a bad divisor ends in `raise`; otherwise the remainder of the long division is written. -/
theorem pModCommand : Obligations.PModCommand := by
  intro d a b s
  refine ⟨decode_wordR_of_operandsPPP rfl (fun _ _ _ => rfl) d a b, fun hb => ?_, fun hb => ?_⟩
  · exact exec_pMod_of_none (by rw [polyMod, polyDivmod_of_headD_eq_zero _ hb, Option.map_none])
  · have hdiv := polyDivmod_of_headD_ne_zero (readP a s) hb
    have hmod := polyMod_of_polyDivmod hdiv
    exact ⟨_, _, hdiv, hmod, polyDivmod_identity hdiv, exec_pMod_of_some hmod⟩

/-- Settles O42: Horner's method is the sum of the coefficients times the powers of the point. -/
theorem pEvalCommand : Obligations.PEvalCommand := fun d a b s =>
  ⟨decode_pEval_word d a b, done_eq _ _, polyEval_eq_xorSum (readP a s) (readS b s)⟩

/-- Settles O43: the ring laws are equalities of lengths and of weighted sums; evaluation is a weighted sum. -/
theorem polynomialLaws : Obligations.PolynomialLaws :=
  ⟨fun a b c => ⟨polyAdd_assoc a b c, polyAdd_comm a b⟩,
    fun a b c => ⟨polyMul_assoc a b c, polyMul_comm a b, polyMul_polyAdd a b c⟩, polyEval_polyAdd,
    fun a b x _ _ => polyEval_polyMul a b x, fun _ _ _ _ _ h hx => polyEval_remainder h hx⟩

end Sys2Proof.Machine
end

section
/-! The Encoder (spec/42_encoder.md R160 to R167). The generator polynomial is a product of factors x + α^i, so its value is
the product of their values, which vanishes at α^i alone. The division with remainder is unique, because a multiple of a
polynomial with a leading coefficient other than 0 that is shorter than it is the zero multiple. Hence the codeword of some
data is the one sequence of 255 symbols that begins with the data and is a multiple of the generator polynomial, and the
properties of R167 are properties of multiples. -/

namespace Sys2Proof.Machine

/-! ### The generator polynomial (R160) -/

@[simp] theorem genpoly_255 : genpoly 255 = [1#8] := rfl

theorem genpoly_of_lt {k : Nat} (hk : k < 255) :
    genpoly k = polyMul (genpoly (k + 1)) [1#8, alphaPow (254 - k)] := by
  have hcount : 255 - k = 254 - k + 1 := by omega
  have hnext : 255 - (k + 1) = 254 - k := by omega
  rw [genpoly, genpoly, Config.n, hcount, hnext, List.range_succ, List.foldl_append, List.foldl_cons, List.foldl_nil]

theorem headD_polyMul (a b : Poly) : (polyMul a b).headD 0#8 = gfMul (a.headD 0#8) (b.headD 0#8) := by
  cases a with
  | nil => simp [polyMul]
  | cons x a =>
    cases b with
    | nil => simp [polyMul]
    | cons y b => simp [polyMul, polyMulRows, scale, xorPrefix, gfAdd]

theorem genpoly_headD {k : Nat} (hk : k ≤ 255) : (genpoly k).headD 0#8 = 1#8 := by
  induction hk using Nat.decreasingInduction with
  | self => rfl
  | of_succ k hk ih => rw [genpoly_of_lt hk, headD_polyMul, ih, List.headD_cons, gfMul_one_left]

theorem genpoly_headD_ne_zero {k : Nat} (hk : k ≤ 255) : (genpoly k).headD 0#8 ≠ 0#8 := by
  rw [genpoly_headD hk]
  decide

theorem gfMul_eq_zero {a b : Symbol} : gfMul a b = 0#8 ↔ a = 0#8 ∨ b = 0#8 := by
  constructor
  · intro h
    by_contra! hne
    obtain ⟨ha, hb⟩ := hne
    exact gfMul_ne_zero ha hb h
  · rintro (rfl | rfl) <;> simp

theorem polyEval_linear_eq_zero {c x : Symbol} : polyEval [1#8, c] x = 0#8 ↔ x = c := by
  simp [polyEval, gfAdd, BitVec.xor_eq_zero_iff]

theorem polyEval_genpoly_eq_zero {k : Nat} (hk : k ≤ 255) (x : Symbol) :
    polyEval (genpoly k) x = 0#8 ↔ ∃ i, i < 255 - k ∧ x = alphaPow i := by
  induction hk using Nat.decreasingInduction with
  | self => simp [polyEval, gfAdd]
  | of_succ k hk ih =>
    have hcount : 255 - k = 255 - (k + 1) + 1 := by omega
    have hlast : 254 - k = 255 - (k + 1) := by omega
    rw [genpoly_of_lt hk, polyEval_polyMul, gfMul_eq_zero, ih, polyEval_linear_eq_zero, hcount, hlast]
    simp only [Nat.lt_succ_iff_lt_or_eq, or_and_right, exists_or, exists_eq_left]

/-! ### Sums, in place and at the end of a sequence (R130) -/

theorem polyAdd_eq_zipWith {a b : Poly} (h : a.length = b.length) :
    polyAdd a b = List.zipWith (· ^^^ ·) a b := by
  simp only [polyAdd, padLeft, h, max_self, Nat.sub_self]
  rfl

theorem weightedSum_append (p r : Poly) (f : Nat → Symbol) :
    weightedSum (p ++ r) f = weightedSum p (fun e => f (e + r.length)) ^^^ weightedSum r f := by
  induction p with
  | nil => simp
  | cons x p ih => simp only [List.cons_append, weightedSum_cons, List.length_append, ih, BitVec.xor_assoc]

theorem polyAdd_append_zeros (p r : Poly) : polyAdd (p ++ zeros r.length) r = p ++ r :=
  eq_of_weightedSum_eq (by simp) fun f => by simp [weightedSum_append]

theorem polyAdd_polyAdd_self {a b : Poly} (h : b.length ≤ a.length) : polyAdd (polyAdd a b) b = a :=
  eq_of_weightedSum_eq (by simp [h]) fun f => by simp

theorem polyAdd_zeros {a : Poly} {n : Nat} (h : n ≤ a.length) : polyAdd a (zeros n) = a :=
  eq_of_weightedSum_eq (by simp [h]) fun f => by simp

theorem polyAdd_polyMul (a b c : Poly) : polyMul (polyAdd a b) c = polyAdd (polyMul a c) (polyMul b c) := by
  simp only [polyMul_comm _ c, polyMul_polyAdd]

theorem xor_eq_xor_exchange {a b c d : Symbol} (h : a ^^^ b = c ^^^ d) : a ^^^ c = b ^^^ d := by
  rw [← BitVec.xor_eq_zero_iff] at h ⊢
  rw [← h]
  ac_rfl

theorem polyAdd_left_cancel {p r r' : Poly} (hlen : r.length = r'.length) (h : polyAdd p r = polyAdd p r') : r = r' :=
  eq_of_weightedSum_eq hlen fun f => by
    have hf := congrArg (weightedSum · f) h
    simpa using hf

/-! ### The division with remainder is unique (R136) -/

theorem coef_eq_headD {p : Poly} {e : Nat} (h : p.length = e + 1) : coef p e = p.headD 0#8 := by
  cases p with
  | nil => simp at h
  | cons x p => rw [coef_cons, if_pos (by simpa using h.symm), List.headD_cons]

/-- A multiple of `b` that is shorter than `b` is the multiple by 0: its highest coefficients are. -/
theorem weightedSum_eq_zero_of_polyMul {b d r : Poly} (hb : b.headD 0#8 ≠ 0#8) (hr : r.length < b.length)
    (h : ∀ f, weightedSum (polyMul d b) f = weightedSum r f) (f : Nat → Symbol) : weightedSum d f = 0#8 := by
  induction d with
  | nil => rfl
  | cons x d ih =>
    have hlen : (polyMul (x :: d) b).length = d.length + (b.length - 1) + 1 := by
      rw [polyMul_length, List.length_cons, if_neg (by omega)]
      omega
    have htop : gfMul x (b.headD 0#8) = 0#8 := by
      calc gfMul x (b.headD 0#8)
        _ = coef (polyMul (x :: d) b) (d.length + (b.length - 1)) := by
          rw [coef_eq_headD hlen, headD_polyMul, List.headD_cons]
        _ = coef r (d.length + (b.length - 1)) := by
          rw [← weightedSum_unitWeight, h, weightedSum_unitWeight]
        _ = 0#8 := coef_of_length_le (by omega)
    obtain rfl := (gfMul_eq_zero.mp htop).resolve_right hb
    simpa using ih fun f => by simpa using h f

/-- Whatever satisfies the division identity with a remainder one shorter than the divisor is what the division answers. -/
theorem polyLongDiv_unique {a b q r : Poly} (hb : b.headD 0#8 ≠ 0#8) (hr : r.length + 1 = b.length)
    (h : polyAdd (polyMul q b) r = a) : polyLongDiv a b = (q, r) := by
  have hidentity := polyMul_polyLongDiv_polyAdd a hb
  have ha : a.length = max (if q.length = 0 then 0 else q.length + b.length - 1) r.length := by
    rw [← h, polyAdd_length, polyMul_length]
    simp only [show b.length ≠ 0 by omega, or_false]
  obtain ⟨hq', hr'⟩ := polyLongDiv_length a b (by omega)
  generalize polyLongDiv a b = qr at *
  obtain ⟨q', r'⟩ := qr
  have hqlen : q'.length = q.length := by grind
  have hrlen : r'.length = r.length := by grind
  have hmultiple : ∀ f, weightedSum (polyMul (polyAdd q' q) b) f = weightedSum (polyAdd r' r) f := by
    intro f
    have hf := congrArg (weightedSum · f) (hidentity.trans h.symm)
    simp only [weightedSum_polyAdd] at hf
    rw [polyAdd_polyMul, weightedSum_polyAdd, weightedSum_polyAdd]
    exact xor_eq_xor_exchange hf
  have hzero := weightedSum_eq_zero_of_polyMul hb (by simp; omega) hmultiple
  simp only [weightedSum_polyAdd, BitVec.xor_eq_zero_iff] at hzero
  obtain rfl := eq_of_weightedSum_eq hqlen hzero
  rw [polyAdd_left_cancel hrlen (hidentity.trans h.symm)]

/-! ### The codeword of some data is the multiple of the generator polynomial that begins with it (R165, R167) -/

theorem polyDivmod_genpoly {k : Nat} (hk : k ≤ 255) (a : Poly) :
    polyDivmod a (genpoly k) = some (polyLongDiv a (genpoly k)) :=
  polyDivmod_of_headD_ne_zero a (genpoly_headD_ne_zero hk)

/-- The codeword is the data, then the remainder, and it is a multiple of the generator polynomial. -/
theorem exists_encodeBlock {data : Poly} {k : Nat} (hlen : data.length = k) (hpos : 1 ≤ k) (hk : k ≤ 255) :
    ∃ q rem : Poly, q.length = k ∧ rem.length = 255 - k ∧ encodeBlock data k = data ++ rem ∧
      polyMod (data ++ zeros (255 - k)) (genpoly k) = some rem ∧ polyMul q (genpoly k) = data ++ rem := by
  have hshifted : (data ++ zeros (255 - k)).length = 255 := by simp; omega
  rcases hqr : polyLongDiv (data ++ zeros (255 - k)) (genpoly k) with ⟨q, rem⟩
  obtain ⟨hq, hrem⟩ : q.length = k ∧ rem.length = 255 - k := by
    have hlens := polyLongDiv_length (data ++ zeros (255 - k)) (genpoly k) (by simp [genpoly_length])
    rw [hqr, hshifted, genpoly_length, if_neg (by omega), if_neg (by omega)] at hlens
    simpa only [show 255 - (255 - k + 1) + 1 = k by omega, Nat.add_sub_cancel] using hlens
  have hdiv := (polyDivmod_genpoly hk (data ++ zeros (255 - k))).trans (congrArg some hqr)
  refine ⟨q, rem, hq, hrem, by rw [encodeBlock, encodeWith, Config.n, hlen, hqr], polyMod_of_polyDivmod hdiv, ?_⟩
  have hmul : (polyMul q (genpoly k)).length = 255 := by
    rw [polyMul_length, hq, genpoly_length, if_neg (by omega)]
    omega
  calc polyMul q (genpoly k)
    _ = polyAdd (polyAdd (polyMul q (genpoly k)) rem) rem := (polyAdd_polyAdd_self (by omega)).symm
    _ = polyAdd (data ++ zeros (255 - k)) rem := by rw [polyDivmod_identity hdiv]
    _ = data ++ rem := by rw [← hrem, polyAdd_append_zeros]

/-- A multiple of the generator polynomial that begins with some data is the codeword of that data. -/
theorem encodeBlock_eq_append {data rem q : Poly} {k : Nat} (hlen : data.length = k) (hk : k ≤ 255)
    (hrem : rem.length = 255 - k) (h : polyMul q (genpoly k) = data ++ rem) : encodeBlock data k = data ++ rem := by
  have hdiv : polyLongDiv (data ++ zeros (255 - k)) (genpoly k) = (q, rem) := by
    refine polyLongDiv_unique (genpoly_headD_ne_zero hk) (by rw [hrem, genpoly_length]) ?_
    rw [h, ← polyAdd_append_zeros, hrem]
    exact polyAdd_polyAdd_self (by simp [hrem])
  rw [encodeBlock, encodeWith, Config.n, hlen, hdiv]

theorem polyMod_polyMul_genpoly {q : Poly} {k : Nat} (hq : q ≠ []) (hk : k ≤ 255) :
    polyMod (polyMul q (genpoly k)) (genpoly k) = some (zeros (255 - k)) := by
  have hdiv : polyLongDiv (polyMul q (genpoly k)) (genpoly k) = (q, zeros (255 - k)) := by
    refine polyLongDiv_unique (genpoly_headD_ne_zero hk) (by simp [genpoly_length]) ?_
    refine polyAdd_zeros ?_
    rw [polyMul_length, genpoly_length]
    simp [hq]
  rw [polyMod, polyDivmod_genpoly hk, hdiv]
  rfl

/-- The code is linear: the sum of two multiples is a multiple, and it begins with the sum of the data. -/
theorem zipWith_xor_encodeBlock {data data' : Poly} {k : Nat} (hlen : data.length = k) (hlen' : data'.length = k)
    (hpos : 1 ≤ k) (hk : k ≤ 255) :
    List.zipWith (· ^^^ ·) (encodeBlock data k) (encodeBlock data' k) =
      encodeBlock (List.zipWith (· ^^^ ·) data data') k := by
  obtain ⟨q, rem, -, hrem, hcode, -, hmul⟩ := exists_encodeBlock hlen hpos hk
  obtain ⟨q', rem', -, hrem', hcode', -, hmul'⟩ := exists_encodeBlock hlen' hpos hk
  have happend : List.zipWith (· ^^^ ·) (data ++ rem) (data' ++ rem') =
      List.zipWith (· ^^^ ·) data data' ++ List.zipWith (· ^^^ ·) rem rem' :=
    List.zipWith_append (hlen.trans hlen'.symm)
  rw [hcode, hcode', happend]
  refine (encodeBlock_eq_append (q := polyAdd q q') (by simp [hlen, hlen']) hk (by simp [hrem, hrem']) ?_).symm
  rw [← happend, polyAdd_polyMul, hmul, hmul', polyAdd_eq_zipWith (by simp [hlen, hlen', hrem, hrem'])]

/-! ### The commands: their words and their ends (R162, R164, R166) -/

theorem operandsP_wordR (f : PReg → Instr) (op : BitVec 8) (d : PReg) :
    operandsP f (wordR op (specP d) 0#4 0#4 0#4) = .ok (f d) := by
  simp [operandsP, Bind.bind, Except.bind, pure, Except.pure]

theorem operandsPP_wordR (f : PReg → PReg → Instr) (op : BitVec 8) (d a : PReg) :
    operandsPP f (wordR op (specP d) (specP a) 0#4 0#4) = .ok (f d a) := by
  simp [operandsPP, Bind.bind, Except.bind, pure, Except.pure]

theorem decode_wordR_of_operandsPP {f : PReg → PReg → Instr} {op : BitVec 8}
    (hop : decodeOp op = operandsPP f) (hwf : ∀ d a, wellFormed (f d a) = true) (d a : PReg) :
    decode (wordR op (specP d) (specP a) 0#4 0#4) = .ok (f d a) :=
  decode_eq_ok.mpr ⟨by rw [opField_wordR, hop, operandsPP_wordR], hwf d a⟩

theorem decode_rsGen_word (d : PReg) : decode (wordR 0x51#8 (specP d) 0#4 0#4 0#4) = .ok (.rsGen d) :=
  decode_eq_ok.mpr ⟨by rw [opField_wordR]; exact operandsP_wordR .rsGen _ d, rfl⟩

theorem decodeOp_rsCfg {w : Word} (hd : dField w = 0#4) (ha : aField w = 0#4) :
    decodeOp 0x50#8 w = .ok (.rsCfg (immField w)) := by
  change (do mustBeZero (dField w); mustBeZero (aField w); _) = _
  simp [hd, ha, Bind.bind, Except.bind, pure, Except.pure]

theorem decode_rsCfg_word (k : Imm) : decode (wordI 0x50#8 0#4 0#4 k) = .ok (.rsCfg k) :=
  decode_eq_ok.mpr ⟨by simp [decodeOp_rsCfg], rfl⟩

theorem exec_rsCfg (k : Imm) (s : State) :
    exec (.rsCfg k) s = if k.toNat = 0 ∨ k.toNat ≥ 255 then raise .length s
      else done 0#16 (configure k.toNat s) := rfl

theorem exec_rsGen (d : PReg) (s : State) :
    exec (.rsGen d) s = if s.cfgv = false then raise .noCfg s else done 0#16 (writeP d s.gen s) := rfl

theorem exec_rsEnc (d a : PReg) (s : State) :
    exec (.rsEnc d a) s = if s.cfgv = false then raise .noCfg s
      else if (readP a s).length ≠ s.k.val then raise .length s
      else done 0#16 (writeP d (encodeWith s.gen (readP a s)) s) := rfl

theorem configure_of_lt {k : Nat} (h : k < 255) (s : State) :
    configure k s = { s with k := ⟨k, h⟩, cfgv := true, gen := genpoly k, z := false, nerr := 0 } := by
  have hk : Fin.ofNat 255 k = ⟨k, h⟩ := Fin.ext (Nat.mod_eq_of_lt h)
  rw [configure, hk]

theorem State.Inv.configured {s : State} (h : s.Inv) (hcfgv : s.cfgv = true) :
    1 ≤ s.k.val ∧ s.gen = genpoly s.k.val := by
  obtain ⟨-, -, -, -, hconfig⟩ := h
  exact hconfig hcfgv

/-! ### The obligations -/

/-- Settles O44: the roots are those of the factors; the printed sequences are the product computed. -/
theorem genpolyRootsAndExamples : Obligations.GenpolyRootsAndExamples := by
  refine ⟨fun k _ hk => ?_, ?_⟩
  · have hk' : k ≤ 255 := hk.trans (by decide)
    exact ⟨genpoly_length k, genpoly_headD hk', polyEval_genpoly_eq_zero hk'⟩
  · decide +kernel

/-- Settles O45: an illegal k ends in `raise`; any other is configured. -/
theorem rsCfgCommand : Obligations.RsCfgCommand := by
  intro k s
  refine ⟨decode_rsCfg_word k, fun hk => ?_, fun hpos hlt => ?_⟩
  · rw [exec_rsCfg, if_pos hk, raise_eq]
  · rw [exec_rsCfg, if_neg (by omega), done_eq, configure_of_lt hlt]

/-- Settles O46: the copied GEN is the generator polynomial of K by the invariant, and K is at least 1. -/
theorem rsGenCommand : Obligations.RsGenCommand := by
  intro d s
  have hcopy (hcfgv : s.cfgv = true) : exec (.rsGen d) s = .next (respond .ok 0#16 (writeP d s.gen s)) := by
    rw [exec_rsGen, if_neg (by simp [hcfgv]), done_eq]
  refine ⟨decode_rsGen_word d, fun hcfgv => ?_, hcopy, fun hcfgv hinv => ?_⟩
  · rw [exec_rsGen, if_pos hcfgv, raise_eq]
  · obtain ⟨hk, hgen⟩ := hinv.configured hcfgv
    exact ⟨hgen ▸ hcopy hcfgv, genpoly_length _, by rw [genpoly_length]; omega⟩

/-- Settles O47: by the invariant the cached GEN is the generator polynomial of K, so the word written is the codeword. -/
theorem rsEncCommand : Obligations.RsEncCommand := by
  intro d a s hinv
  refine ⟨decode_wordR_of_operandsPP rfl (fun _ _ => rfl) d a, fun hcfgv => ?_, fun hcfgv hlen => ?_,
    fun hcfgv hlen => ?_⟩
  · rw [exec_rsEnc, if_pos hcfgv, raise_eq]
  · rw [exec_rsEnc, if_neg (by simp [hcfgv]), if_pos hlen, raise_eq]
  · obtain ⟨hk, hgen⟩ := hinv.configured hcfgv
    obtain ⟨-, rem, -, hrem, hcode, hmod, -⟩ := exists_encodeBlock hlen hk s.k.isLt.le
    refine ⟨rem, hmod, hrem, hcode, ?_⟩
    rw [exec_rsEnc, if_neg (by simp [hcfgv]), if_neg (not_not_intro hlen), done_eq, hgen, ← encodeBlock, hcode]

/-- Settles O48: the codeword is a multiple of the generator polynomial, and every multiple that begins with data is the
codeword of that data. -/
theorem codewordProperties : Obligations.CodewordProperties := by
  intro k data data' hpos hk hlen hlen'
  have hk' : k ≤ 255 := hk.trans (by decide)
  obtain ⟨q, rem, hq, hrem, hcode, -, hmul⟩ := exists_encodeBlock hlen hpos hk'
  refine ⟨?_, ?_, ?_, fun i hi => ?_, zipWith_xor_encodeBlock hlen hlen' hpos hk'⟩
  · rw [hcode, List.length_append, hlen, hrem, Nat.add_sub_cancel' hk']
  · rw [hcode, ← hlen, List.take_left]
  · rw [hcode, ← hmul]
    exact polyMod_polyMul_genpoly (by rintro rfl; simp at hq; omega) hk'
  · rw [hcode, ← hmul, polyEval_polyMul, (polyEval_genpoly_eq_zero hk' _).mpr ⟨i, hi, rfl⟩, gfMul_zero_right]

end Sys2Proof.Machine
end

section
/-! The Decoder commands (spec/43_decoder.md R182 to R212). Each function of the stages has one rule that says what it
computes in the reference arithmetic, and each command ends in `raise` or `done` as its tests say. -/

namespace Sys2Proof.Machine

/-! ### Sums and sequences -/

theorem xorAll_map_range (n : Nat) (f : Nat → Symbol) : xorAll ((List.range n).map f) = xorSum n f := by
  rw [xorAll, List.foldl_map]
  rfl

theorem xorSum_succ_left (n : Nat) (f : Nat → Symbol) : xorSum (n + 1) f = f 0 ^^^ xorSum n (fun i => f (i + 1)) := by
  induction n with
  | zero => simp [xorSum_succ]
  | succ n ih => rw [xorSum_succ, ih, xorSum_succ, BitVec.xor_assoc]

theorem coef_reverse (p : Poly) (e : Nat) : coef p.reverse e = p.getD e 0#8 := by
  unfold coef
  split
  case isTrue h =>
    rw [List.length_reverse] at h ⊢
    have hindex : p.length - 1 - (p.length - 1 - e) = e := by omega
    rw [List.getD_eq_getElem _ _ h, List.getD_eq_getElem _ _ (by simp; omega), List.getElem_reverse]
    simp only [hindex]
  case isFalse h =>
    rw [List.length_reverse] at h
    rw [List.getD_eq_default _ _ (Nat.not_lt.mp h)]

/-- A polynomial listed lowest degree first and then reversed. -/
theorem polyEval_reverse_map_range (n : Nat) (f : Nat → Symbol) (x : Symbol) :
    polyEval ((List.range n).map f).reverse x = xorSum n (fun e => xmul (f e) (xpow x e)) := by
  rw [polyEval_eq_xorSum, List.length_reverse, List.length_map, List.length_range]
  refine xorSum_congr fun e he => ?_
  rw [coef_reverse, List.getD_eq_getElem _ _ (by simpa using he)]
  simp

theorem allZero_iff (p : Poly) : allZero p = true ↔ ∀ x ∈ p, x = 0#8 := by simp [allZero]

/-! ### Syndromes (R182) -/

theorem syndromes_getD {m i : Nat} (r : Poly) (h : i < m) :
    (syndromes r m).getD i 0#8 = polyEval r (alphaPow i) := by
  rw [List.getD_eq_getElem _ _ (by simpa using h)]
  simp [syndromes]

theorem allZero_syndromes_iff (r : Poly) (m : Nat) :
    allZero (syndromes r m) = true ↔ ∀ i, i < m → polyEval r (alphaPow i) = 0#8 := by
  simp [allZero_iff, syndromes]

/-! ### Root positions (R191) -/

theorem toNat_ofNat_position {j : Nat} (h : j < 255) : (BitVec.ofNat 8 j).toNat = j := by
  rw [BitVec.toNat_ofNat]
  omega

theorem mem_rootPositions {lam : Poly} {j : Symbol} :
    j ∈ rootPositions lam ↔ j.toNat ≤ 254 ∧ polyEval lam (alphaPowNeg j.toNat) = 0#8 := by
  simp only [rootPositions, List.mem_map, List.mem_filter, List.mem_range, decide_eq_true_eq]
  constructor
  · rintro ⟨n, ⟨hn, hroot⟩, rfl⟩
    rw [toNat_ofNat_position hn]
    exact ⟨Nat.le_of_lt_succ hn, hroot⟩
  · rintro ⟨hj, hroot⟩
    exact ⟨j.toNat, ⟨Nat.lt_succ_of_le hj, hroot⟩, by simp⟩

theorem pairwise_rootPositions (lam : Poly) : (rootPositions lam).Pairwise (fun x y => x.toNat < y.toNat) := by
  refine List.pairwise_map.mpr (List.Pairwise.imp_of_mem ?_ (List.pairwise_lt_range.filter _))
  intro a b ha hb hlt
  have ha' : a < 255 := List.mem_range.mp (List.mem_of_mem_filter ha)
  have hb' : b < 255 := List.mem_range.mp (List.mem_of_mem_filter hb)
  rwa [toNat_ofNat_position ha', toNat_ofNat_position hb']

theorem rootPositions_length (lam : Poly) : (rootPositions lam).length =
    ((List.range 255).filter (fun j => polyEval lam (alphaPowNeg j) = 0#8)).length :=
  List.length_map _

theorem chien_of_length {lam : Poly} (h : (rootPositions lam).length + 1 = lam.length) :
    chien lam = some (rootPositions lam) := if_pos h

theorem chien_of_length_ne {lam : Poly} (h : (rootPositions lam).length + 1 ≠ lam.length) : chien lam = none :=
  if_neg h

/-! ### Magnitudes (R200 to R202) -/

theorem evaluatorCoef_eq_xorSum (S lam : Poly) (c : Nat) : evaluatorCoef S lam c =
    xorSum (min c (lam.length - 1) + 1) (fun i => xmul (coef lam i) (S.getD (c - i) 0#8)) := by
  simp only [evaluatorCoef, xorAll_map_range, gfMul_eq_xmul, locCoef]

theorem polyEval_evaluator (S lam : Poly) (x : Symbol) : polyEval (evaluator S lam) x = omegaAt S lam x := by
  simp only [evaluator, polyEval_reverse_map_range, evaluatorCoef_eq_xorSum, omegaAt]

theorem polyEval_derivative (lam : Poly) (x : Symbol) : polyEval (derivative lam) x = lambdaPrimeAt lam x := by
  rw [derivative, polyEval_reverse_map_range, lambdaPrimeAt]
  refine xorSum_congr fun e _ => ?_
  split
  · rw [locCoef]
  · exact xmul_zero_left _

/-- X times the quotient of Ω by Λ', where Λ' is not 0 (R202). -/
theorem magnitude_eq_map (S lam : Poly) (j : Nat) : magnitude S lam j =
    (gfDiv (omegaAt S lam (alphaPowNeg j)) (lambdaPrimeAt lam (alphaPowNeg j))).map (gfMul (alphaPow j)) := by
  rw [← polyEval_evaluator, ← polyEval_derivative, magnitude]
  cases gfDiv (polyEval (evaluator S lam) (alphaPowNeg j)) (polyEval (derivative lam) (alphaPowNeg j)) <;> rfl

theorem magnitude_eq_none {S lam : Poly} {j : Nat} (h : lambdaPrimeAt lam (alphaPowNeg j) = 0#8) :
    magnitude S lam j = none := by
  rw [magnitude_eq_map, h, gfDiv_zero_right, Option.map_none]

/-- The magnitude is the one symbol whose product with Λ' is X·Ω. -/
theorem magnitude_eq_some_iff {S lam : Poly} {j : Nat} (h : lambdaPrimeAt lam (alphaPowNeg j) ≠ 0#8) (e : Symbol) :
    magnitude S lam j = some e ↔
      xmul e (lambdaPrimeAt lam (alphaPowNeg j)) = xmul (alphaPow j) (omegaAt S lam (alphaPowNeg j)) := by
  obtain ⟨v, -, -, hdiv⟩ := exists_gfInv h
  obtain ⟨q, hq, hunique⟩ := exists_gfDiv (gfMul (alphaPow j) (omegaAt S lam (alphaPowNeg j))) h
  rw [hdiv, Option.some.injEq] at hq
  rw [magnitude_eq_map, hdiv, ← gfMul_eq_xmul, ← gfMul_eq_xmul, hunique, ← hq, gfMul_assoc, Option.map_some,
    Option.some.injEq, eq_comm]

theorem exists_magnitude {S lam : Poly} {j : Nat} (h : lambdaPrimeAt lam (alphaPowNeg j) ≠ 0#8) :
    ∃ e, magnitude S lam j = some e := by
  obtain ⟨v, -, -, hdiv⟩ := exists_gfInv h
  exact ⟨_, by rw [magnitude_eq_map, hdiv, Option.map_some]⟩

theorem forney_of_magnitude {S lam pos : Poly} {mag : Symbol → Symbol}
    (h : ∀ j ∈ pos, magnitude S lam j.toNat = some (mag j)) : forney S lam pos = some (pos.map mag) := by
  induction pos with
  | nil => rfl
  | cons j pos ih =>
    obtain ⟨hj, hpos⟩ := List.forall_mem_cons.mp h
    rw [forney, hj, ih hpos, List.map_cons]

theorem forney_of_magnitude_none {S lam pos : Poly} {j : Symbol} (hj : j ∈ pos)
    (h : magnitude S lam j.toNat = none) : forney S lam pos = none := by
  induction pos with
  | nil => exact absurd hj List.not_mem_nil
  | cons i pos ih =>
    rw [forney]
    rcases List.mem_cons.mp hj with rfl | hpos
    · rw [h]
    · rw [ih hpos]
      cases magnitude S lam i.toNat <;> rfl

/-! ### Correction (R206) -/

theorem toNat_le_of_ne_255 {j : Symbol} (h : j ≠ 255#8) : j.toNat ≤ 254 := by
  have hne : j.toNat ≠ 255 := fun e => h (BitVec.eq_of_toNat_eq e)
  have hlt := j.isLt
  omega

theorem fixOne_getD {w : Poly} {j e : Symbol} {q : Nat} (hw : w.length = 255) (hj : j ≠ 255#8) (hq : q < 255) :
    (fixOne w (j, e)).getD q 0#8 = w.getD q 0#8 ^^^ if j.toNat + q = 254 then e else 0#8 := by
  have hle := toNat_le_of_ne_255 hj
  have hiff : 254 - j.toNat = q ↔ j.toNat + q = 254 := by omega
  rw [List.getD_eq_getElem _ _ (by simpa [hw] using hq), List.getD_eq_getElem _ _ (by simpa [hw] using hq)]
  simp only [fixOne, List.getElem_modify, hiff, gfAdd]
  split <;> simp

theorem fix_getD {r pos mag : Poly} {q : Nat} (hr : r.length = 255) (hlen : pos.length = mag.length)
    (hpos : 255#8 ∉ pos) (hq : q < 255) :
    (fix r pos mag).getD q 0#8 = r.getD q 0#8 ^^^ xorSum pos.length
      (fun l => if (pos.getD l 0#8).toNat + q = 254 then mag.getD l 0#8 else 0#8) := by
  induction pos generalizing r mag with
  | nil => simp [fix]
  | cons j pos ih =>
    cases mag with
    | nil => simp at hlen
    | cons e mag =>
      obtain ⟨hj, hrest⟩ := not_or.mp (mt List.mem_cons.mpr hpos)
      have hstep : fix r (j :: pos) (e :: mag) = fix (fixOne r (j, e)) pos mag := rfl
      rw [hstep, ih (by simpa using hr) (by simpa using hlen) hrest, fixOne_getD hr (Ne.symm hj) hq, List.length_cons,
        xorSum_succ_left, BitVec.xor_assoc]
      rfl

theorem hasBadPosition_iff (pos : Poly) : hasBadPosition pos = true ↔ 255#8 ∈ pos := by
  simp [hasBadPosition]

theorem goodVector_iff (S : Poly) : goodVector S = true ↔ 1 ≤ S.length ∧ S.length ≤ 254 := by simp [goodVector]

theorem goodVector_eq_false {S : Poly} (h : S.length = 0 ∨ 254 < S.length) : goodVector S = false := by
  simp only [goodVector, decide_eq_false_iff_not]
  omega

/-! ### The whole decoder (R210) -/

theorem decodeBlock_of_syndromes_zero {r : Poly} {k : Nat} (h : ∀ i, i < 255 - k → polyEval r (alphaPow i) = 0#8) :
    decodeBlock r k = some (r.take k, 0) := if_pos ((allZero_syndromes_iff r (255 - k)).mpr h)

/-! ### The commands: their words and their ends (R184, R190, R197, R205, R208, R212) -/

theorem decode_wordR_of_operandsPPPP {f : PReg → PReg → PReg → PReg → Instr} {op : BitVec 8}
    (hop : decodeOp op = operandsPPPP f) (hwf : ∀ d a b c, wellFormed (f d a b c) = true) (d a b c : PReg) :
    decode (wordR op (specP d) (specP a) (specP b) (specP c)) = .ok (f d a b c) := by
  rw [decode_eq_ok, opField_wordR, hop]
  exact ⟨operandsPPPP_wordR f op d a b c, hwf d a b c⟩

theorem exec_rsSyn (d a : PReg) (s : State) :
    exec (.rsSyn d a) s = if s.cfgv = false then raise .noCfg s
      else if (readP a s).length ≠ 255 then raise .length s
      else done (countData (bit (zOf (syndromes (readP a s) (255 - s.k.val)))))
        (setZ (zOf (syndromes (readP a s) (255 - s.k.val))) (writeP d (syndromes (readP a s) (255 - s.k.val)) s)) := rfl

theorem exec_rsBm (d a : PReg) (s : State) :
    exec (.rsBm d a) s = if goodVector (readP a s) = false then raise .length s
      else (bm (readP a s)).elim (raise .uncorr s) fun lam => done (countData (lam.length - 1)) (writeP d lam s) := by
  change execRsBm d a s = _
  unfold execRsBm
  cases bm (readP a s) <;> rfl

theorem exec_rsChien (d a : PReg) (s : State) :
    exec (.rsChien d a) s = if (readP a s).length = 0 then raise .length s
      else (chien (readP a s)).elim (raise .uncorr s) fun pos => done (countData pos.length) (writeP d pos s) := by
  change execRsChien d a s = _
  unfold execRsChien
  cases chien (readP a s) <;> rfl

theorem exec_rsForney (d a b c : PReg) (s : State) :
    exec (.rsForney d a b c) s = if goodVector (readP a s) = false then raise .length s
      else if (readP b s).length = 0 then raise .length s
      else if hasBadPosition (readP c s) = true then raise .range s
      else (forney (readP a s) (readP b s) (readP c s)).elim (raise .uncorr s)
        fun mag => done 0#16 (writeP d mag s) := by
  change execRsForney d a b c s = _
  unfold execRsForney
  cases forney (readP a s) (readP b s) (readP c s) <;> rfl

theorem exec_rsFix (d a b c : PReg) (s : State) :
    exec (.rsFix d a b c) s = if (readP a s).length ≠ 255 then raise .length s
      else if (readP b s).length ≠ (readP c s).length then raise .length s
      else if hasBadPosition (readP b s) = true then raise .range s
      else done 0#16 (writeP d (fix (readP a s) (readP b s) (readP c s)) s) := rfl

theorem exec_rsDec (d a : PReg) (s : State) :
    exec (.rsDec d a) s = if s.cfgv = false then raise .noCfg s
      else if (readP a s).length ≠ 255 then raise .length s
      else (decodeBlock (readP a s) s.k.val).elim (raise .uncorr s) fun dc => .next (respond .ok (BitVec.ofNat 16 dc.2)
        { writeP d dc.1 s with
            z := allZero (syndromes (readP a s) (255 - s.k.val))
            nerr := Fin.ofNat 128 dc.2 }) := by
  change execRsDec d a s = _
  unfold execRsDec
  cases decodeBlock (readP a s) s.k.val <;> rfl

theorem exec_rsDec_of_decodeBlock {d a : PReg} {s : State} {result : Option (Poly × Nat)} (hcfgv : s.cfgv = true)
    (hlen : (readP a s).length = 255) (h : decodeBlock (readP a s) s.k.val = result) :
    exec (.rsDec d a) s = result.elim (raise .uncorr s) fun dc => .next (respond .ok (BitVec.ofNat 16 dc.2)
      { writeP d dc.1 s with
          z := allZero (syndromes (readP a s) (255 - s.k.val))
          nerr := Fin.ofNat 128 dc.2 }) := by
  rw [exec_rsDec, if_neg (by simp [hcfgv]), if_neg (not_not_intro hlen), h]

/-! ### The obligations -/

/-- Settles O49: the elements are the values at the powers of ALPHA, and Z tests them. -/
theorem rsSynCommand : Obligations.RsSynCommand := by
  intro d a s
  refine ⟨decode_wordR_of_operandsPP rfl (fun _ _ => rfl) d a, fun hcfgv => ?_, fun hcfgv hlen => ?_,
    fun hcfgv hlen => ?_⟩
  · rw [exec_rsSyn, if_pos hcfgv, raise_eq]
  · rw [exec_rsSyn, if_neg (by simp [hcfgv]), if_pos hlen, raise_eq]
  · refine ⟨syndromes (readP a s) (255 - s.k.val), zOf (syndromes (readP a s) (255 - s.k.val)), syndromes_length _ _,
      fun i => syndromes_getD _, allZero_iff _, ?_⟩
    rw [exec_rsSyn, if_neg (by simp [hcfgv]), if_neg (not_not_intro hlen), done_eq]
    cases zOf (syndromes (readP a s) (255 - s.k.val)) <;> rfl

/-- Settles O51: the length of the locator is bounded by the degree test of `bm`. -/
theorem rsBmCommand : Obligations.RsBmCommand := by
  intro d a s
  refine ⟨decode_wordR_of_operandsPP rfl (fun _ _ => rfl) d a, fun hlen => ?_, fun hpos hle => ⟨fun hbm => ?_, ?_⟩⟩
  · rw [exec_rsBm, if_pos (goodVector_eq_false hlen), raise_eq]
  · rw [exec_rsBm, if_neg (by simp [goodVector_iff, hpos, hle]), hbm, Option.elim_none, raise_eq]
  · intro lam hbm
    obtain ⟨hlam, hdegree⟩ := bm_length hbm
    refine ⟨hlam, by omega, by omega, ?_⟩
    rw [exec_rsBm, if_neg (by simp [goodVector_iff, hpos, hle]), hbm, Option.elim_some, done_eq, countData]

/-- Settles O53: the list of root positions is written when it is as long as the locator's degree. -/
theorem rsChienCommand : Obligations.RsChienCommand := by
  intro d a s
  refine ⟨decode_wordR_of_operandsPP rfl (fun _ _ => rfl) d a, fun ha => ?_, fun ha n hn => ?_⟩
  · rw [exec_rsChien, if_pos (by rw [ha, List.length_nil]), raise_eq]
  have hpos : (readP a s).length ≠ 0 := by simpa using ha
  have hcount : (rootPositions (readP a s)).length = n := (rootPositions_length _).trans hn.symm
  rw [exec_rsChien, if_neg hpos]
  refine ⟨fun hne => ?_, fun heq => ?_⟩
  · rw [chien_of_length_ne (by omega), Option.elim_none, raise_eq]
  · refine ⟨rootPositions (readP a s), hcount, pairwise_rootPositions _, fun j => mem_rootPositions, ?_⟩
    rw [chien_of_length (by omega), Option.elim_some, done_eq, countData, hcount]

/-- Settles O54: a zero of Λ' at a listed position fails; otherwise each magnitude is the quotient X·Ω / Λ'. -/
theorem rsForneyCommand : Obligations.RsForneyCommand := by
  intro d a b c s
  refine ⟨decode_wordR_of_operandsPPPP rfl (fun _ _ _ _ => rfl) d a b c, fun hbad => ?_, fun hpos hle hb => ?_⟩
  · rw [exec_rsForney]
    rcases or_assoc.mpr hbad with ha | hb
    · rw [if_pos (goodVector_eq_false ha), raise_eq]
    · rw [if_pos hb, ite_self, raise_eq]
  · have hgood : ¬ goodVector (readP a s) = false := by simp [goodVector_iff, hpos, hle]
    have hne : ¬ (readP b s).length = 0 := by omega
    rw [exec_rsForney, if_neg hgood, if_neg hne]
    refine ⟨fun h255 => ?_, fun h255 => ?_, fun h255 hprime => ?_⟩
    · rw [if_pos ((hasBadPosition_iff _).mpr h255), raise_eq]
    · rintro ⟨j, hj, hzero⟩
      rw [if_neg (mt (hasBadPosition_iff _).mp h255), forney_of_magnitude_none hj (magnitude_eq_none hzero),
        Option.elim_none, raise_eq]
    · choose! mag hmag using fun j hj => exists_magnitude (S := readP a s) (hprime j hj)
      refine ⟨(readP c s).map mag, List.length_map _, fun l hl => ?_, ?_⟩
      · rw [List.getD_eq_getElem _ _ hl, List.getD_eq_getElem _ _ (by simpa using hl), List.getElem_map]
        have hmem := List.getElem_mem hl
        exact (magnitude_eq_some_iff (hprime _ hmem) _).mp (hmag _ hmem)
      · rw [if_neg (mt (hasBadPosition_iff _).mp h255), forney_of_magnitude hmag, Option.elim_some, done_eq]

/-- Settles O55: the corrections are XORed in one after the other, each into its own element. -/
theorem rsFixCommand : Obligations.RsFixCommand := by
  intro d a b c s
  refine ⟨decode_wordR_of_operandsPPPP rfl (fun _ _ _ _ => rfl) d a b c, fun hbad => ?_, fun hlen hlists => ?_⟩
  · rw [exec_rsFix]
    rcases hbad with ha | hlists
    · rw [if_pos ha, raise_eq]
    · rw [if_pos hlists, ite_self, raise_eq]
  · rw [exec_rsFix, if_neg (not_not_intro hlen), if_neg (not_not_intro hlists)]
    refine ⟨fun h255 => ?_, fun h255 => ?_⟩
    · rw [if_pos ((hasBadPosition_iff _).mpr h255), raise_eq]
    · refine ⟨fix (readP a s) (readP b s) (readP c s), by simpa using hlen,
        fun q hq => fix_getD hlen hlists h255 hq, ?_⟩
      rw [if_neg (mt (hasBadPosition_iff _).mp h255), done_eq]

/-- Settles O56: the command ends as `decodeBlock` does, whose results have the lengths stated; Z tests the syndromes of
the word as read. -/
theorem rsDecCommand : Obligations.RsDecCommand := by
  intro d a s
  refine ⟨decode_wordR_of_operandsPP rfl (fun _ _ => rfl) d a, fun hcfgv => ?_, fun hcfgv hlen => ?_,
    fun hcfgv hlen => ⟨fun h => ?_, fun data cnt h => ?_, fun hzero => ?_⟩⟩
  · rw [exec_rsDec, if_pos hcfgv, raise_eq]
  · rw [exec_rsDec, if_neg (by simp [hcfgv]), if_pos hlen, raise_eq]
  · rw [exec_rsDec_of_decodeBlock hcfgv hlen h, Option.elim_none, raise_eq]
  · obtain ⟨hdata, hcnt⟩ := decodeBlock_length h
    have hk := s.k.isLt
    have hz : allZero (syndromes (readP a s) (255 - s.k.val)) =
        decide (∀ i : Nat, i < 255 - s.k.val → polyEval (readP a s) (alphaPow i) = 0#8) := by
      rw [Bool.eq_iff_iff, allZero_syndromes_iff, decide_eq_true_iff]
    refine ⟨by rw [hdata]; omega, hcnt, ?_⟩
    rw [exec_rsDec_of_decodeBlock hcfgv hlen h, Option.elim_some, hz]
  · rw [exec_rsDec_of_decodeBlock hcfgv hlen (decodeBlock_of_syndromes_zero hzero), Option.elim_some,
      (allZero_syndromes_iff _ _).mpr hzero]
    rfl

end Sys2Proof.Machine
end

section
/-! Linear recurrences of a sequence over a field, and the Berlekamp-Massey iteration (spec/43_decoder.md R186, R187).
The sequence is the power series S, and a connection polynomial C satisfies the recurrence of length L below index r
when the coefficients L to r − 1 of C·S vanish. The second polynomial D of the iteration is x^sh·B: the coefficients of
D·S vanish from r + 1 − L on, up to the coefficient at r, which does not. Hence no shorter recurrence exists, and D
removes the discrepancy of C. -/

namespace Sys2Proof.Machine

open PowerSeries

section
variable {F : Type} [Field F]

/-- The coefficient of a product when the first factor has coefficients below `k` only. -/
theorem coeff_mul_eq_sum_range {C S : PowerSeries F} {k : Nat} (hC : ∀ i, k ≤ i → coeff i C = 0) (n : Nat) :
    coeff n (C * S) = ∑ i ∈ Finset.range (min n (k - 1) + 1), coeff i C * coeff (n - i) S := by
  rw [coeff_mul, Finset.Nat.sum_antidiagonal_eq_sum_range_succ fun i j => coeff i C * coeff j S]
  refine (Finset.sum_subset (Finset.range_subset_range.mpr (by omega)) fun i hi hk => ?_).symm
  rw [hC i (by simp at hi hk; omega), zero_mul]

/-- R186: `C` has constant term 1 and degree at most `L`, and satisfies the recurrence of `S` for the indices from `L`
up to, and without, `r`. -/
abbrev IsRecurrence (S : PowerSeries F) (r L : Nat) (C : PowerSeries F) : Prop :=
  coeff 0 C = 1 ∧ (∀ i, L < i → coeff i C = 0) ∧ ∀ n, L ≤ n → n < r → coeff n (C * S) = 0

/-- What is known of `D` = x^sh·B before step `r`, `b` being the discrepancy at the last length change (R187). -/
abbrev IsAuxiliary (S : PowerSeries F) (r L : Nat) (D : PowerSeries F) (b : F) : Prop :=
  coeff 0 D = 0 ∧ (∀ i, r + 1 - L < i → coeff i D = 0) ∧
    (∀ n, r + 1 - L ≤ n → n ≤ r → coeff n (D * S) = if n = r then b else 0) ∧ b ≠ 0

/-- The invariant before step `r` of the iteration. -/
abbrev BmInvariant (S : PowerSeries F) (r L : Nat) (C D : PowerSeries F) (b : F) : Prop :=
  L ≤ r ∧ IsRecurrence S r L C ∧ IsAuxiliary S r L D b

variable {S C D : PowerSeries F} {r L : Nat} {b : F}

/-- Before the first step no index is constrained. -/
theorem bmInvariant_init (S : PowerSeries F) : BmInvariant S 0 0 1 X 1 := by
  refine ⟨le_rfl, ⟨by simp, fun i hi => ?_, fun n _ hn => absurd hn n.not_lt_zero⟩,
    coeff_zero_X, fun i hi => ?_, fun n hn hn' => by omega, one_ne_zero⟩
  · rw [coeff_one, if_neg hi.ne']
  · rw [coeff_X, if_neg (by omega)]

/-- No recurrence is shorter: the coefficient at `r` of σ·D·S is 0 by the recurrence of σ, and b by that of D. -/
theorem BmInvariant.le_of_isRecurrence (h : BmInvariant S r L C D b) {L' : Nat} {σ : PowerSeries F}
    (hσ : IsRecurrence S r L' σ) : L ≤ L' := by
  obtain ⟨hle, -, hD, hDdegree, hDvanishes, hb⟩ := h
  obtain ⟨hone, hdegree, hvanishes⟩ := hσ
  by_contra! hlt
  have hzero : coeff r (D * (σ * S)) = 0 := by
    rw [coeff_mul]
    refine Finset.sum_eq_zero fun ⟨j, n⟩ hjn => ?_
    have hsum : j + n = r := Finset.HasAntidiagonal.mem_antidiagonal.mp hjn
    rcases Nat.eq_zero_or_pos j with rfl | hj
    · rw [hD, zero_mul]
    rcases Nat.lt_or_ge (r + 1 - L) j with hlarge | hsmall
    · rw [hDdegree j hlarge, zero_mul]
    · rw [hvanishes n (by omega) (by omega), mul_zero]
  have hdiscrepancy : coeff r (σ * (D * S)) = b := by
    rw [coeff_mul, Finset.sum_eq_single (0, r)]
    · rw [hone, hDvanishes r (by omega) le_rfl, if_pos rfl, one_mul]
    · rintro ⟨i, n⟩ hin hne
      have hsum : i + n = r := Finset.HasAntidiagonal.mem_antidiagonal.mp hin
      rcases Nat.lt_or_ge L' i with hlarge | hsmall
      · rw [hdegree i hlarge, zero_mul]
      · have hn : n ≠ r := by
          rintro rfl
          exact hne (by simp; omega)
        rw [hDvanishes n (by omega) (by omega), if_neg hn, mul_zero]
    · simp
  exact hb (by rw [← hdiscrepancy, mul_left_comm, hzero])

/-- D is shifted when the length stays. -/
theorem IsAuxiliary.shift (h : IsAuxiliary S r L D b) (hle : L ≤ r) : IsAuxiliary S (r + 1) L (X * D) b := by
  obtain ⟨-, hdegree, hvanishes, hb⟩ := h
  refine ⟨coeff_zero_X_mul D, fun i hi => ?_, fun n hn hn' => ?_, hb⟩
  · obtain ⟨i, rfl⟩ := Nat.exists_eq_succ_of_ne_zero (by omega : i ≠ 0)
    rw [coeff_succ_X_mul, hdegree i (by omega)]
  · obtain ⟨n, rfl⟩ := Nat.exists_eq_succ_of_ne_zero (by omega : n ≠ 0)
    rw [mul_assoc, coeff_succ_X_mul, hvanishes n (by omega) (by omega)]
    simp

/-- D starts again from C when the length changes. -/
theorem IsRecurrence.auxiliary (h : IsRecurrence S r L C) (hle : L ≤ r) (hd : coeff r (C * S) ≠ 0) :
    IsAuxiliary S (r + 1) (r + 1 - L) (X * C) (coeff r (C * S)) := by
  obtain ⟨-, hdegree, hvanishes⟩ := h
  refine ⟨coeff_zero_X_mul C, fun i hi => ?_, fun n hn hn' => ?_, hd⟩
  · obtain ⟨i, rfl⟩ := Nat.exists_eq_succ_of_ne_zero (by omega : i ≠ 0)
    rw [coeff_succ_X_mul, hdegree i (by omega)]
  · obtain ⟨n, rfl⟩ := Nat.exists_eq_succ_of_ne_zero (by omega : n ≠ 0)
    rw [mul_assoc, coeff_succ_X_mul]
    rcases Nat.lt_or_ge n r with hlt | hge
    · rw [hvanishes n (by omega) hlt, if_neg (by omega)]
    · obtain rfl : n = r := by omega
      rw [if_pos rfl]

/-- The adjusted connection polynomial satisfies the recurrence at `r` too, at a length that covers C and D. -/
theorem BmInvariant.adjust (h : BmInvariant S r L C D b) {a : F} (ha : coeff r (C * S) + a * b = 0) {L' : Nat}
    (hL : L ≤ L') (hL' : r + 1 - L ≤ L') : IsRecurrence S (r + 1) L' (C + PowerSeries.C a * D) := by
  obtain ⟨-, ⟨hone, hdegree, hvanishes⟩, hD, hDdegree, hDvanishes, -⟩ := h
  refine ⟨?_, fun i hi => ?_, fun n hn hn' => ?_⟩
  · rw [map_add, coeff_C_mul, hD, hone, mul_zero, add_zero]
  · rw [map_add, coeff_C_mul, hdegree i (by omega), hDdegree i (by omega), mul_zero, add_zero]
  · rw [add_mul, mul_assoc, map_add, coeff_C_mul, hDvanishes n (by omega) (by omega)]
    rcases Nat.lt_succ_iff_lt_or_eq.mp hn' with hlt | rfl
    · rw [hvanishes n (by omega) hlt, if_neg hlt.ne, mul_zero, add_zero]
    · rw [if_pos rfl, ha]

/-- A step without a discrepancy. -/
theorem BmInvariant.keep (h : BmInvariant S r L C D b) (hd : coeff r (C * S) = 0) :
    BmInvariant S (r + 1) L C (X * D) b := by
  obtain ⟨hle, ⟨hone, hdegree, hvanishes⟩, haux⟩ := h
  refine ⟨hle.trans r.le_succ, ⟨hone, hdegree, fun n hn hn' => ?_⟩, haux.shift hle⟩
  rcases Nat.lt_succ_iff_lt_or_eq.mp hn' with hlt | rfl
  · exact hvanishes n hn hlt
  · exact hd

/-- A step with a discrepancy that keeps the length. -/
theorem BmInvariant.adjust_keep (h : BmInvariant S r L C D b) {a : F} (ha : coeff r (C * S) + a * b = 0)
    (hL : r < 2 * L) : BmInvariant S (r + 1) L (C + PowerSeries.C a * D) (X * D) b := by
  have hadjust := h.adjust ha le_rfl (by omega)
  obtain ⟨hle, -, haux⟩ := h
  exact ⟨hle.trans r.le_succ, hadjust, haux.shift hle⟩

/-- A step with a discrepancy that changes the length. -/
theorem BmInvariant.adjust_grow (h : BmInvariant S r L C D b) {a : F} (ha : coeff r (C * S) + a * b = 0)
    (hd : coeff r (C * S) ≠ 0) (hL : 2 * L ≤ r) :
    BmInvariant S (r + 1) (r + 1 - L) (C + PowerSeries.C a * D) (X * C) (coeff r (C * S)) := by
  have hadjust := h.adjust ha (by omega) le_rfl
  obtain ⟨hle, hconn, -⟩ := h
  exact ⟨by omega, hadjust, hconn.auxiliary hle hd⟩

end

end Sys2Proof.Machine
end

section
/-! Error patterns over a field (spec/43_decoder.md R181, R186, R202): the syndrome series Σ e_j / (1 − X_j·x) of errors
e_j at locators X_j, for the positions j of a finite set. A connection polynomial that satisfies its recurrence for
twice as many indices as there are errors vanishes at the inverses of the locators, by the Vandermonde determinant; so at
the length of the recurrence it has no other roots and only simple ones, and Forney's formula is read off the
factorisation Λ = (1 − X_j·x)·Q_j. -/

namespace Sys2Proof.Machine

open Polynomial

section
variable {F : Type} [Field F] (positions : Finset Nat) (locator value : Nat → F)

/-- Errors that are not 0, at distinct locators that are not 0 (R181). -/
abbrev IsErrorPattern : Prop :=
  (∀ j, locator j ≠ 0) ∧ Set.InjOn locator positions ∧ ∀ j ∈ positions, value j ≠ 0

/-- The syndromes of every index as a power series (R182). -/
noncomputable def syndromeSeries : PowerSeries F :=
  PowerSeries.mk fun n => ∑ j ∈ positions, value j * locator j ^ n

/-- The locator that belongs to the errors, Π (1 − X_j·x) (R186). -/
noncomputable def trueLocator : F[X] := ∏ j ∈ positions, (1 - C (locator j) * X)

/-- `Λ` locates the errors: it vanishes at the inverses of the locators, and its degree is no larger than that takes. -/
abbrev IsErrorLocator (Λ : F[X]) : Prop :=
  Λ ≠ 0 ∧ Λ.natDegree ≤ positions.card ∧ ∀ j ∈ positions, Λ.eval (locator j)⁻¹ = 0

variable {positions locator value}

/-! ### The recurrence of the syndromes (R186) -/

/-- Above its degree, Λ acts on the syndromes by its values at the inverses of the locators. -/
theorem coeff_mul_syndromeSeries (hlocator : ∀ j, locator j ≠ 0) {Λ : F[X]} {n : Nat} (h : Λ.natDegree ≤ n) :
    PowerSeries.coeff n ((Λ : PowerSeries F) * syndromeSeries positions locator value) =
      ∑ j ∈ positions, value j * locator j ^ n * Λ.eval (locator j)⁻¹ := by
  rw [PowerSeries.coeff_mul, Finset.Nat.sum_antidiagonal_eq_sum_range_succ
    fun i k => PowerSeries.coeff i (Λ : PowerSeries F) * PowerSeries.coeff k (syndromeSeries positions locator value)]
  simp only [syndromeSeries, PowerSeries.coeff_mk, Polynomial.coeff_coe, Finset.mul_sum,
    eval_eq_sum_range' (Nat.lt_succ_of_le h)]
  rw [Finset.sum_comm]
  refine Finset.sum_congr rfl fun j _ => Finset.sum_congr rfl fun i hi => ?_
  have hsplit : locator j ^ n = locator j ^ (n - i) * locator j ^ i := by
    rw [← pow_add, Nat.sub_add_cancel (by simpa using hi)]
  rw [hsplit, inv_pow]
  field_simp [hlocator j]

theorem eval_trueLocator (hlocator : ∀ j, locator j ≠ 0) {j : Nat} (hj : j ∈ positions) :
    (trueLocator positions locator).eval (locator j)⁻¹ = 0 := by
  rw [trueLocator, eval_prod]
  refine Finset.prod_eq_zero hj ?_
  simp [hlocator j]

theorem coeff_zero_trueLocator : (trueLocator positions locator).coeff 0 = 1 := by
  simp [coeff_zero_eq_eval_zero, trueLocator, eval_prod]

theorem natDegree_factor_le (a : F) : (1 - C a * X).natDegree ≤ 1 := by compute_degree

theorem natDegree_trueLocator_le : (trueLocator positions locator).natDegree ≤ positions.card := by
  refine (natDegree_prod_le _ _).trans ?_
  simpa using Finset.sum_le_card_nsmul positions _ 1 fun j _ => natDegree_factor_le (locator j)

theorem isRecurrence_trueLocator (hlocator : ∀ j, locator j ≠ 0) (m : Nat) :
    IsRecurrence (syndromeSeries positions locator value) m positions.card (trueLocator positions locator) := by
  refine ⟨?_, fun i hi => ?_, fun n hn _ => ?_⟩
  · rw [coeff_coe, coeff_zero_trueLocator]
  · rw [coeff_coe, coeff_eq_zero_of_natDegree_lt (lt_of_le_of_lt natDegree_trueLocator_le hi)]
  · rw [coeff_mul_syndromeSeries hlocator (le_trans natDegree_trueLocator_le hn)]
    exact Finset.sum_eq_zero fun j hj => by rw [eval_trueLocator hlocator hj, mul_zero]

/-! ### What satisfies the recurrence long enough locates the errors -/

/-- Weights on distinct points are 0 when as many power sums are. -/
theorem weights_eq_zero (hinj : Set.InjOn locator positions) {w : Nat → F}
    (h : ∀ i < positions.card, ∑ j ∈ positions, w j * locator j ^ i = 0) : ∀ j ∈ positions, w j = 0 := by
  let index := positions.equivFin.symm
  have hindex : Function.Injective fun l => locator (index l) := fun l l' hl =>
    index.injective (Subtype.ext (hinj (index l).2 (index l').2 hl))
  have hzero := Matrix.eq_zero_of_forall_pow_sum_mul_pow_eq_zero (v := fun l => w (index l)) hindex fun i => by
    rw [← h i i.isLt, ← Finset.sum_coe_sort positions fun j => w j * locator j ^ (i : Nat)]
    exact index.sum_comp fun j : positions => w j * locator j ^ (i : Nat)
  intro j hj
  simpa [index] using congrFun hzero (positions.equivFin ⟨j, hj⟩)

/-- A polynomial that satisfies the recurrence for as many indices as there are errors vanishes at the inverses of
the locators. -/
theorem IsErrorPattern.eval_eq_zero_of_vanishes (hP : IsErrorPattern positions locator value) {Λ : F[X]}
    (hdegree : Λ.natDegree ≤ positions.card)
    (h : ∀ n, positions.card ≤ n → n < 2 * positions.card →
      PowerSeries.coeff n ((Λ : PowerSeries F) * syndromeSeries positions locator value) = 0) :
    ∀ j ∈ positions, Λ.eval (locator j)⁻¹ = 0 := by
  obtain ⟨hlocator, hinj, hvalue⟩ := hP
  have hweights := weights_eq_zero hinj
    (w := fun j => value j * locator j ^ positions.card * Λ.eval (locator j)⁻¹) fun i hi => by
      rw [← h (positions.card + i) (by omega) (by omega), coeff_mul_syndromeSeries hlocator (by omega)]
      refine Finset.sum_congr rfl fun j _ => ?_
      rw [pow_add]
      ring
  intro j hj
  have hne : value j * locator j ^ positions.card ≠ 0 := mul_ne_zero (hvalue j hj) (pow_ne_zero _ (hlocator j))
  exact (mul_eq_zero.mp (hweights j hj)).resolve_left hne

/-- A recurrence that is no longer than the number of errors locates them, when it holds for twice as many indices. -/
theorem IsErrorPattern.isErrorLocator (hP : IsErrorPattern positions locator value) {Λ : F[X]} {m L : Nat}
    (h : IsRecurrence (syndromeSeries positions locator value) m L Λ) (hL : L ≤ positions.card)
    (hm : 2 * positions.card ≤ m) : IsErrorLocator positions locator Λ := by
  obtain ⟨hone, hdegree, hvanishes⟩ := h
  have hle : Λ.natDegree ≤ positions.card := by
    refine (natDegree_le_iff_coeff_eq_zero.mpr fun i hi => ?_).trans hL
    rw [← Polynomial.coeff_coe]
    exact hdegree i hi
  refine ⟨?_, hle, hP.eval_eq_zero_of_vanishes hle fun n hn hn' => hvanishes n (by omega) (by omega)⟩
  rintro rfl
  simp at hone

/-! ### The roots of an error locator -/

theorem nodup_inv_locator (hinj : Set.InjOn locator positions) :
    (positions.val.map fun j => (locator j)⁻¹).Nodup :=
  Multiset.Nodup.map_on (fun _ hj _ hj' h => hinj hj hj' (inv_injective h)) positions.nodup

section
variable {Λ : F[X]} (hinj : Set.InjOn locator positions) (h : IsErrorLocator positions locator Λ)
include hinj h

theorem IsErrorLocator.roots_eq : Λ.roots = positions.val.map fun j => (locator j)⁻¹ := by
  obtain ⟨hne, hdegree, hroot⟩ := h
  refine (Multiset.eq_of_le_of_card_le ((Multiset.le_iff_subset (nodup_inv_locator hinj)).mpr ?_) ?_).symm
  · intro x hx
    obtain ⟨j, hj, rfl⟩ := Multiset.mem_map.mp hx
    exact (mem_roots hne).mpr (hroot j hj)
  · rw [Multiset.card_map]
    exact (card_roots' Λ).trans hdegree

theorem IsErrorLocator.natDegree_eq : Λ.natDegree = positions.card := by
  have hcard := card_roots' Λ
  rw [IsErrorLocator.roots_eq hinj h, Multiset.card_map] at hcard
  obtain ⟨-, hdegree, -⟩ := h
  exact hdegree.antisymm hcard

theorem IsErrorLocator.eval_eq_zero_iff (x : F) : Λ.eval x = 0 ↔ ∃ j ∈ positions, (locator j)⁻¹ = x := by
  have hroots := IsErrorLocator.roots_eq hinj h
  obtain ⟨hne, -, -⟩ := h
  rw [← IsRoot.def, ← mem_roots hne, hroots, Multiset.mem_map]
  rfl

theorem IsErrorLocator.eval_derivative_ne_zero {j : Nat} (hj : j ∈ positions) :
    (Polynomial.derivative Λ).eval (locator j)⁻¹ ≠ 0 := by
  classical
  intro hzero
  have hsimple := Multiset.nodup_iff_count_le_one.mp (nodup_inv_locator hinj) (locator j)⁻¹
  rw [← IsErrorLocator.roots_eq hinj h, count_roots] at hsimple
  obtain ⟨hne, -, hroot⟩ := h
  exact hsimple.not_gt ((one_lt_rootMultiplicity_iff_isRoot hne).mpr ⟨hroot j hj, hzero⟩)

end

/-! ### Forney's formula (R202) -/

/-- The series a^0, a^1·x, a^2·x^2, … is the inverse of 1 − a·x. -/
theorem one_sub_mul_geometric (a : F) :
    ((1 - C a * X : F[X]) : PowerSeries F) * PowerSeries.mk (fun n => a ^ n) = 1 := by
  ext n
  rw [Polynomial.coe_sub, Polynomial.coe_one, Polynomial.coe_mul, Polynomial.coe_C, Polynomial.coe_X, sub_mul, one_mul,
    mul_assoc, map_sub, PowerSeries.coeff_C_mul, PowerSeries.coeff_mk, PowerSeries.coeff_one]
  cases n with
  | zero => simp
  | succ n => simp [PowerSeries.coeff_succ_X_mul, pow_succ']

/-- A root at the inverse of `a` splits off the factor 1 − a·x. -/
theorem exists_eq_factor_mul {Λ : F[X]} {a : F} (ha : a ≠ 0) (h : Λ.eval a⁻¹ = 0) : ∃ Q, Λ = (1 - C a * X) * Q := by
  obtain ⟨q, hq⟩ := dvd_iff_isRoot.mpr h
  refine ⟨C (-a⁻¹) * q, ?_⟩
  have hC : C a * C a⁻¹ = (1 : F[X]) := by rw [← C_mul, mul_inv_cancel₀ ha, C_1]
  rw [hq, C_neg]
  linear_combination (-X * q) * hC

theorem natDegree_cofactor_lt {Λ Q : F[X]} {a : F} (ha : a ≠ 0) (hne : Λ ≠ 0) (h : Λ = (1 - C a * X) * Q) :
    Q.natDegree < Λ.natDegree := by
  have hlinear : (1 - C a * X : F[X]) = C (-a) * X + C 1 := by
    rw [C_neg, C_1]
    ring
  have hdegree : (1 - C a * X).natDegree = 1 := by rw [hlinear, natDegree_linear (neg_ne_zero.mpr ha)]
  rw [h] at hne
  rw [h, natDegree_mul (left_ne_zero_of_mul hne) (right_ne_zero_of_mul hne), hdegree]
  omega

/-- The evaluator: Λ times the syndrome series is the sum of the e_j times the cofactors of 1 − X_j·x in Λ. -/
theorem coeff_mul_syndromeSeries_of_factors {Λ : F[X]} {Q : Nat → F[X]}
    (hQ : ∀ j ∈ positions, Λ = (1 - C (locator j) * X) * Q j) (n : Nat) :
    PowerSeries.coeff n ((Λ : PowerSeries F) * syndromeSeries positions locator value) =
      ∑ j ∈ positions, value j * (Q j).coeff n := by
  have hsum : syndromeSeries positions locator value =
      ∑ j ∈ positions, PowerSeries.C (value j) * PowerSeries.mk (fun n => locator j ^ n) := by
    ext n
    simp [syndromeSeries]
  rw [hsum, Finset.mul_sum, map_sum]
  refine Finset.sum_congr rfl fun j hj => ?_
  have hone := one_sub_mul_geometric (locator j)
  rw [mul_left_comm, PowerSeries.coeff_C_mul, hQ j hj, Polynomial.coe_mul, mul_right_comm, hone, one_mul,
    Polynomial.coeff_coe]

/-- At an error position X·Ω is −e·Λ': of the cofactors only its own does not vanish, and that is −Λ'/X. -/
theorem IsErrorLocator.locator_mul_evaluator (hlocator : ∀ j, locator j ≠ 0) (hinj : Set.InjOn locator positions)
    {Λ : F[X]} (h : IsErrorLocator positions locator Λ) {m : Nat} (hm : positions.card ≤ m) {k : Nat}
    (hk : k ∈ positions) :
    locator k * ∑ c ∈ Finset.range m,
      PowerSeries.coeff c ((Λ : PowerSeries F) * syndromeSeries positions locator value) * (locator k)⁻¹ ^ c =
    -(value k * (Polynomial.derivative Λ).eval (locator k)⁻¹) := by
  obtain ⟨hne, hdegree, hroot⟩ := h
  choose! Q hQ using fun j hj => exists_eq_factor_mul (hlocator j) (hroot j hj)
  have hlt : ∀ j ∈ positions, (Q j).natDegree < m := fun j hj =>
    (natDegree_cofactor_lt (hlocator j) hne (hQ j hj)).trans_le (hdegree.trans hm)
  have hsum : ∑ c ∈ Finset.range m,
      PowerSeries.coeff c ((Λ : PowerSeries F) * syndromeSeries positions locator value) * (locator k)⁻¹ ^ c =
      ∑ j ∈ positions, value j * (Q j).eval (locator k)⁻¹ := by
    simp only [coeff_mul_syndromeSeries_of_factors hQ, Finset.sum_mul]
    rw [Finset.sum_comm]
    refine Finset.sum_congr rfl fun j hj => ?_
    rw [eval_eq_sum_range' (hlt j hj), Finset.mul_sum]
    exact Finset.sum_congr rfl fun c _ => mul_assoc _ _ _
  have hother : ∀ j ∈ positions, j ≠ k → (Q j).eval (locator k)⁻¹ = 0 := by
    intro j hj hjk
    have hzero := hroot k hk
    rw [hQ j hj, eval_mul] at hzero
    refine (mul_eq_zero.mp hzero).resolve_left fun hfactor => hjk (hinj hj hk ?_)
    have hone : 1 - locator j * (locator k)⁻¹ = 0 := by simpa using hfactor
    exact (mul_inv_eq_one₀ (hlocator k)).mp (sub_eq_zero.mp hone).symm
  have hprime : (Polynomial.derivative Λ).eval (locator k)⁻¹ = -(locator k * (Q k).eval (locator k)⁻¹) := by
    rw [hQ k hk]
    simp [hlocator k]
  rw [hsum, Finset.sum_eq_single_of_mem k hk fun j hj hjk => by rw [hother j hj hjk, mul_zero], hprime]
  ring

end

end Sys2Proof.Machine
end

section
/-! The symbols as a field of characteristic 2 (spec/40_field.md R109), and the Berlekamp-Massey iteration of the model
as the iteration over that field. The model's functions are carried over by an embedding of the symbols into a field, so
that Mathlib's algebra speaks of them without its ring structure on bit vectors getting in the way. -/

namespace Sys2Proof.Machine

/-! ### The field -/

/-- The symbols as the carrier of a field; the type of bit vectors has another addition and another product. -/
def FieldSymbol : Type := Symbol

/-- The field of rules R100 to R104. -/
@[reducible] def symbolField : Field FieldSymbol :=
  letI : Add FieldSymbol := ⟨gfAdd⟩
  letI : Mul FieldSymbol := ⟨gfMul⟩
  letI : Neg FieldSymbol := ⟨fun a => a⟩
  letI : Inv FieldSymbol := ⟨fun a => (gfInv a).getD 0#8⟩
  letI : Zero FieldSymbol := ⟨(0#8 : Symbol)⟩
  letI : One FieldSymbol := ⟨(1#8 : Symbol)⟩
  Field.ofMinimalAxioms FieldSymbol BitVec.xor_assoc (fun _ : Symbol => BitVec.zero_xor)
    (fun _ : Symbol => BitVec.xor_self) gfMul_assoc gfMul_comm gfMul_one_left
    (fun a ha => by
      obtain ⟨v, hv, hone, -⟩ := exists_gfInv ha
      have hinv : a⁻¹ = v := congrArg (Option.getD · 0#8) hv
      rw [hinv]
      exact hone)
    rfl gfMul_gfAdd ⟨(0#8 : Symbol), (1#8 : Symbol), fun h => absurd (congrArg BitVec.toNat h) (by decide)⟩

/-- `φ` takes the symbols into a field of characteristic 2: sums, products and 1 are kept, and no two are identified. -/
abbrev IsSymbolEmbedding {F : Type} [Field F] (φ : Symbol → F) : Prop :=
  Function.Injective φ ∧ (∀ a b, φ (a ^^^ b) = φ a + φ b) ∧ (∀ a b, φ (gfMul a b) = φ a * φ b) ∧ φ 1#8 = 1

theorem exists_symbolEmbedding : ∃ (F : Type) (_ : Field F) (φ : Symbol → F), IsSymbolEmbedding φ :=
  letI := symbolField
  ⟨FieldSymbol, symbolField, id, fun _ _ h => h, fun _ _ => rfl, fun _ _ => rfl, rfl⟩

namespace IsSymbolEmbedding

variable {F : Type} [Field F] {φ : Symbol → F} (hφ : IsSymbolEmbedding φ)
include hφ

theorem injective : Function.Injective φ := by
  obtain ⟨hinjective, -⟩ := hφ
  exact hinjective

theorem map_xor (a b : Symbol) : φ (a ^^^ b) = φ a + φ b := by
  obtain ⟨-, hxor, -⟩ := hφ
  exact hxor a b

theorem map_gfMul (a b : Symbol) : φ (gfMul a b) = φ a * φ b := by
  obtain ⟨-, -, hmul, -⟩ := hφ
  exact hmul a b

theorem map_one : φ 1#8 = 1 := by
  obtain ⟨-, -, -, hone⟩ := hφ
  exact hone

theorem map_zero : φ 0#8 = 0 := by simpa using hφ.map_xor 0#8 0#8

theorem map_eq_zero {a : Symbol} : φ a = 0 ↔ a = 0#8 := by
  rw [← hφ.map_zero]
  exact hφ.injective.eq_iff

theorem charTwo : CharP F 2 := by
  refine CharTwo.of_one_ne_zero_of_two_eq_zero one_ne_zero ?_
  have h := hφ.map_xor 1#8 1#8
  rw [BitVec.xor_self, hφ.map_zero, hφ.map_one, one_add_one_eq_two] at h
  exact h.symm

theorem map_gfQuot (a : Symbol) {b : Symbol} (hb : b ≠ 0#8) : φ (gfQuot a b) = φ a / φ b := by
  rw [eq_div_iff (mt hφ.map_eq_zero.mp hb), ← hφ.map_gfMul, gfMul_gfQuot hb]

theorem map_xorSum (n : Nat) (f : Nat → Symbol) : φ (xorSum n f) = ∑ i ∈ Finset.range n, φ (f i) := by
  induction n with
  | zero => exact hφ.map_zero
  | succ n ih => rw [xorSum_succ, hφ.map_xor, ih, Finset.sum_range_succ]

theorem map_xpow (a : Symbol) (e : Nat) : φ (xpow a e) = φ a ^ e := by
  induction e with
  | zero => rw [xpow, hφ.map_one, pow_zero]
  | succ e ih => rw [xpow, ← gfMul_eq_xmul, hφ.map_gfMul, ih, pow_succ]

theorem map_alphaPow (m e : Nat) : φ (alphaPow (m * e)) = φ (alphaPow m) ^ e := by
  rw [← hφ.map_xpow, ← gfPow_eq_xpow, gfPow_alphaPow]

theorem map_alphaPow_ne_zero (n : Nat) : φ (alphaPow n) ≠ 0 := mt hφ.map_eq_zero.mp (alphaPow_ne_zero n)

theorem map_alphaPowNeg {j : Nat} (hj : j ≤ 255) : φ (alphaPowNeg j) = (φ (alphaPow j))⁻¹ := by
  refine eq_inv_of_mul_eq_one_left ?_
  rw [alphaPowNeg, ← hφ.map_gfMul, gfMul_alphaPow, Nat.sub_add_cancel hj, ← hφ.map_one]
  rfl

end IsSymbolEmbedding

/-! ### Sequences of symbols as polynomials and power series -/

section
variable {F : Type} [Field F]

/-- The polynomial of a sequence, whose coefficient of x^e is coef(p, e) (R13). -/
noncomputable def toPolynomial (φ : Symbol → F) (p : Poly) : Polynomial F :=
  ∑ e ∈ Finset.range p.length, Polynomial.C (φ (coef p e)) * Polynomial.X ^ e

/-- The power series of a list indexed by the power of x, as in R187. -/
noncomputable def toSeries (φ : Symbol → F) (l : List Symbol) : PowerSeries F :=
  PowerSeries.mk fun i => φ (l.getD i 0#8)

@[simp] theorem coeff_toSeries (φ : Symbol → F) (l : List Symbol) (i : Nat) :
    PowerSeries.coeff i (toSeries φ l) = φ (l.getD i 0#8) := PowerSeries.coeff_mk _ _

variable {φ : Symbol → F} (hφ : IsSymbolEmbedding φ)
include hφ

theorem coeff_toPolynomial (p : Poly) (e : Nat) : (toPolynomial φ p).coeff e = φ (coef p e) := by
  simp only [toPolynomial, Polynomial.finsetSum_coeff, Polynomial.coeff_C_mul_X_pow, Finset.sum_ite_eq,
    Finset.mem_range]
  split
  · rfl
  · next h => rw [coef_of_length_le (Nat.not_lt.mp h), hφ.map_zero]

theorem natDegree_toPolynomial_le (p : Poly) : (toPolynomial φ p).natDegree ≤ p.length - 1 :=
  Polynomial.natDegree_le_iff_coeff_eq_zero.mpr fun e he => by
    rw [coeff_toPolynomial hφ, coef_of_length_le (by omega), hφ.map_zero]

theorem eval_toPolynomial (p : Poly) (x : Symbol) : (toPolynomial φ p).eval (φ x) = φ (polyEval p x) := by
  simp only [polyEval_eq_xorSum, hφ.map_xorSum, ← gfMul_eq_xmul, hφ.map_gfMul, hφ.map_xpow, toPolynomial,
    Polynomial.eval_finsetSum, Polynomial.eval_mul, Polynomial.eval_C, Polynomial.eval_pow, Polynomial.eval_X]

/-- In characteristic 2 the formal derivative keeps the odd coefficients (R201). -/
theorem toPolynomial_derivative (lam : Poly) :
    toPolynomial φ (derivative lam) = Polynomial.derivative (toPolynomial φ lam) := by
  have hchar := hφ.charTwo
  ext e
  rw [Polynomial.coeff_derivative, coeff_toPolynomial hφ, coeff_toPolynomial hφ, derivative, coef_reverse]
  have hcast : ((e : F) + 1) = if e % 2 = 0 then 1 else 0 := by
    rw [CharTwo.natCast_eq_ite]
    simp only [Nat.even_iff]
    split
    · rw [zero_add]
    · exact CharTwo.add_self_eq_zero 1
  rw [hcast]
  rcases Nat.lt_or_ge e (lam.length - 1) with hlt | hge
  · rw [List.getD_eq_getElem _ _ (by simpa using hlt), List.getElem_map, List.getElem_range, locCoef]
    split <;> simp [hφ.map_zero]
  · rw [List.getD_eq_default _ _ (by simpa using hge), coef_of_length_le (by omega), hφ.map_zero, zero_mul]

end

/-! ### The iteration (R187) -/

theorem xorPrefix_getD (w v : Poly) (i : Nat) :
    (xorPrefix w v).getD i 0#8 = w.getD i 0#8 ^^^ if i < w.length then v.getD i 0#8 else 0#8 := by
  fun_induction xorPrefix w v generalizing i with
  | case1 x w y v ih =>
    cases i with
    | zero => simp [gfAdd]
    | succ i => simpa using ih i
  | case2 w => simp
  | case3 y v => simp

theorem scale_getD (c : Symbol) (p : Poly) (i : Nat) : (scale c p).getD i 0#8 = gfMul c (p.getD i 0#8) := by
  rcases Nat.lt_or_ge i p.length with hlt | hge
  · rw [List.getD_eq_getElem _ _ (by simpa using hlt), List.getD_eq_getElem _ _ hlt]
    simp [scale]
  · rw [List.getD_eq_default _ _ (by simpa using hge), List.getD_eq_default _ _ hge, gfMul_zero_right]

theorem zeros_append_getD (n : Nat) (p : Poly) (i : Nat) :
    (zeros n ++ p).getD i 0#8 = if n ≤ i then p.getD (i - n) 0#8 else 0#8 := by
  split
  · next h => rw [List.getD_append_right _ _ _ _ (by simpa using h), List.length_replicate]
  · next h =>
    rw [List.getD_append _ _ _ _ (by simpa using h), List.getD_eq_getElem _ _ (by simpa using h)]
    simp

section
variable {F : Type} [Field F] {φ : Symbol → F} (hφ : IsSymbolEmbedding φ) {m : Nat}

/-- The polynomial x^sh·B of the working values. -/
noncomputable def shiftedPrev (φ : Symbol → F) (st : BmState) : PowerSeries F :=
  PowerSeries.X ^ st.sh * toSeries φ st.prev

/-- The working values before step `r`, for `m` syndromes, satisfy the invariant. -/
abbrev BmTracks (φ : Symbol → F) (S : PowerSeries F) (m r : Nat) (st : BmState) : Prop :=
  st.conn.length = m + 1 ∧ BmInvariant S r st.len (toSeries φ st.conn) (shiftedPrev φ st) (φ st.lastD)

theorem shiftedPrev_succ (st : BmState) (conn : List Symbol) (len : Nat) :
    shiftedPrev φ { st with conn := conn, len := len, sh := st.sh + 1 } = PowerSeries.X * shiftedPrev φ st := by
  rw [shiftedPrev, shiftedPrev, pow_succ', mul_assoc]

include hφ

/-- No entry of B that is not 0 is shifted beyond index m, so the guard of R187 never fires. -/
theorem toSeries_bmAdjust {st : BmState} (hconn : st.conn.length = m + 1)
    (hguard : ∀ i, m + 1 ≤ i → PowerSeries.coeff i (shiftedPrev φ st) = 0) (d : Symbol) :
    toSeries φ (bmAdjust st d) =
      toSeries φ st.conn + PowerSeries.C (φ (gfQuot d st.lastD)) * shiftedPrev φ st := by
  have hshift : ∀ i, φ ((zeros st.sh ++ scale (gfQuot d st.lastD) st.prev).getD i 0#8) =
      φ (gfQuot d st.lastD) * PowerSeries.coeff i (shiftedPrev φ st) := by
    intro i
    rw [zeros_append_getD, scale_getD, shiftedPrev, PowerSeries.coeff_X_pow_mul']
    split
    · rw [hφ.map_gfMul, coeff_toSeries]
    · rw [hφ.map_zero, mul_zero]
  ext i
  rw [coeff_toSeries, bmAdjust, xorPrefix_getD, hφ.map_xor, map_add, coeff_toSeries, PowerSeries.coeff_C_mul]
  split
  · rw [hshift]
  · next h => rw [hφ.map_zero, hguard i (by omega), mul_zero]

/-- The discrepancy is the coefficient of C·S at `r`. -/
theorem map_bmDiscrepancy {S : PowerSeries F} {s : Poly} {r : Nat} {st : BmState}
    (hs : ∀ n ≤ r, φ (s.getD n 0#8) = PowerSeries.coeff n S) (hle : st.len ≤ r)
    (h : IsRecurrence S r st.len (toSeries φ st.conn)) :
    φ (bmDiscrepancy s st r) = PowerSeries.coeff r (toSeries φ st.conn * S) := by
  obtain ⟨hone, hdegree, -⟩ := h
  rw [coeff_mul_eq_sum_range (k := st.len + 1) hdegree, Nat.add_sub_cancel,
    Nat.min_eq_right hle, Finset.sum_range_succ', hone, one_mul, Nat.sub_zero, ← hs r le_rfl, bmDiscrepancy, gfAdd,
    xorAll_map_range, hφ.map_xor, hφ.map_xorSum, add_comm]
  congr 1
  refine Finset.sum_congr rfl fun i _ => ?_
  rw [hφ.map_gfMul, hs _ (Nat.sub_le _ _), coeff_toSeries]

theorem bmTracks_init (S : PowerSeries F) : BmTracks φ S m 0 (bmInit m) := by
  have hone : toSeries φ (1#8 :: zeros m) = 1 := by
    ext i
    rw [coeff_toSeries, PowerSeries.coeff_one]
    cases i with
    | zero => exact hφ.map_one
    | succ i => simpa using hφ.map_zero
  refine ⟨by simp [bmInit], ?_⟩
  have hinit := bmInvariant_init S
  rw [← hφ.map_one] at hinit
  simpa [bmInit, shiftedPrev, hone] using hinit

theorem bmTracks_step {S : PowerSeries F} {s : Poly} {r : Nat} {st : BmState} (hr : r < m)
    (hs : ∀ n ≤ r, φ (s.getD n 0#8) = PowerSeries.coeff n S) (h : BmTracks φ S m r st) :
    BmTracks φ S m (r + 1) (bmStep s st r) := by
  have hchar := hφ.charTwo
  obtain ⟨hconn, hinv⟩ := h
  have ⟨hle, hrec, _, hdegree, _, hb⟩ := hinv
  have hd := map_bmDiscrepancy hφ hs hle hrec
  have hadjust := toSeries_bmAdjust hφ hconn fun i hi => hdegree i (by omega)
  have hlen : ∀ d, (bmAdjust st d).length = m + 1 := fun d => by rw [bmAdjust, xorPrefix_length, hconn]
  have hcancel : PowerSeries.coeff r (toSeries φ st.conn * S) +
      φ (gfQuot (bmDiscrepancy s st r) st.lastD) * φ st.lastD = 0 := by
    rw [← hd, hφ.map_gfQuot _ (mt hφ.map_eq_zero.mpr hb), div_mul_cancel₀ _ hb, CharTwo.add_self_eq_zero]
  simp only [bmStep]
  split
  · next hzero =>
    refine ⟨hconn, ?_⟩
    rw [shiftedPrev_succ]
    exact hinv.keep (by rw [← hd, hzero, hφ.map_zero])
  next hne =>
  split
  · next hgrow =>
    have hgrown := hinv.adjust_grow hcancel (by rw [← hd]; exact mt hφ.map_eq_zero.mp hne) hgrow
    rw [← hadjust, ← hd] at hgrown
    exact ⟨hlen _, by simpa [shiftedPrev] using hgrown⟩
  · next hkeep =>
    refine ⟨hlen _, ?_⟩
    rw [shiftedPrev_succ, hadjust]
    exact hinv.adjust_keep hcancel (Nat.not_le.mp hkeep)

theorem bmTracks_bmRun {S : PowerSeries F} {s : Poly}
    (hs : ∀ n < s.length, φ (s.getD n 0#8) = PowerSeries.coeff n S) :
    BmTracks φ S s.length s.length (bmRun s) := by
  have hsteps : ∀ r ≤ s.length, BmTracks φ S s.length r ((List.range r).foldl (bmStep s) (bmInit s.length)) := by
    intro r
    induction r with
    | zero => exact fun _ => bmTracks_init hφ S
    | succ r ih =>
      intro hr
      rw [List.range_succ, List.foldl_append]
      exact bmTracks_step hφ hr (fun n hn => hs n (by omega)) (ih (Nat.le_of_succ_le hr))
  exact hsteps s.length le_rfl

end

end Sys2Proof.Machine
end

section
/-! RS.DEC corrects up to floor((n − k)/2) errors (spec/43_decoder.md R214). The syndromes of a word within that
distance of a codeword are those of its errors; the locator of the iteration is no longer than the number of errors,
because the true locator satisfies the recurrence; so the root search finds the error positions, Forney's formula the
magnitudes, and the corrected word is the codeword. -/

namespace Sys2Proof.Machine

/-! ### The positions in which two words differ (R181) -/

/-- The exponents at which `r` and `c` differ. -/
def errorPositions (r c : Poly) : Finset Nat := {j ∈ Finset.range 255 | coef r j ≠ coef c j}

theorem mem_errorPositions {r c : Poly} {j : Nat} : j ∈ errorPositions r c ↔ j < 255 ∧ coef r j ≠ coef c j := by
  simp [errorPositions]

theorem lt_of_mem_errorPositions {r c : Poly} {j : Nat} (h : j ∈ errorPositions r c) : j < 255 := by
  rw [mem_errorPositions] at h
  exact h.1

theorem coef_ne_of_mem_errorPositions {r c : Poly} {j : Nat} (h : j ∈ errorPositions r c) : coef r j ≠ coef c j := by
  rw [mem_errorPositions] at h
  exact h.2

theorem distance_cons (x y : Symbol) (u v : Poly) :
    distance (x :: u) (y :: v) = distance u v + if x ≠ y then 1 else 0 := by
  by_cases h : x = y <;> simp [distance, h]

theorem distance_eq_card {u v : Poly} (h : u.length = v.length) :
    distance u v = (Finset.filter (fun j => coef u j ≠ coef v j) (Finset.range u.length)).card := by
  induction u generalizing v with
  | nil => rfl
  | cons x u ih =>
    cases v with
    | nil => simp at h
    | cons y v =>
      have huv : u.length = v.length := by simpa using h
      have htail : ∀ j ∈ Finset.range u.length, coef (x :: u) j ≠ coef (y :: v) j ↔ coef u j ≠ coef v j := by
        intro j hj
        have hne : j ≠ u.length := (Finset.mem_range.mp hj).ne
        rw [coef_cons, coef_cons, if_neg hne, if_neg (huv ▸ hne)]
      rw [distance_cons, ih huv, List.length_cons, Finset.range_add_one, Finset.filter_insert,
        Finset.filter_congr htail, coef_cons, coef_cons, if_pos rfl, if_pos huv]
      split
      · rw [Finset.card_insert_of_notMem (by simp)]
      · rfl

theorem distance_eq_card_errorPositions {r c : Poly} (hr : r.length = 255) (hc : c.length = 255) :
    distance r c = (errorPositions r c).card := by
  rw [distance_eq_card (hr.trans hc.symm), hr, errorPositions]

theorem getD_eq_coef {p : Poly} (h : p.length = 255) {q : Nat} (hq : q < 255) : p.getD q 0#8 = coef p (254 - q) := by
  have hindex : p.length - 1 - (254 - q) = q := by omega
  rw [coef, if_pos (by omega), hindex]

theorem eq_of_coef_eq {p q : Poly} (hp : p.length = 255) (hq : q.length = 255)
    (h : ∀ j, j < 255 → coef p j = coef q j) : p = q := by
  refine List.ext_getElem (hp.trans hq.symm) fun i hi hi' => ?_
  have hcoef := h (254 - i) (by omega)
  rw [← getD_eq_coef hp (by omega), ← getD_eq_coef hq (by omega)] at hcoef
  rwa [List.getD_eq_getElem _ _ hi, List.getD_eq_getElem _ _ hi'] at hcoef

theorem eq_of_errorPositions_eq_empty {r c : Poly} (hr : r.length = 255) (hc : c.length = 255)
    (h : errorPositions r c = ∅) : r = c := by
  refine eq_of_coef_eq hr hc fun j hj => ?_
  have hj' : j ∉ errorPositions r c := by rw [h]; exact Finset.notMem_empty j
  rw [mem_errorPositions] at hj'
  by_contra hne
  exact hj' ⟨hj, hne⟩

/-! ### Correction at distinct positions (R206) -/

/-- At most one entry of a list without repeats is the position looked for. -/
theorem xorSum_lookup {pos : Poly} (h : pos.Nodup) (mag : Symbol → Symbol) (j : Symbol) :
    xorSum pos.length (fun l => if pos.getD l 0#8 = j then (pos.map mag).getD l 0#8 else 0#8) =
      if j ∈ pos then mag j else 0#8 := by
  induction pos with
  | nil => rfl
  | cons i pos ih =>
    obtain ⟨hi, hpos⟩ := List.nodup_cons.mp h
    have hsum := ih hpos
    rw [List.length_cons, xorSum_succ_left]
    simp only [List.map_cons, List.getD_cons_succ, List.getD_cons_zero, hsum, List.mem_cons]
    rcases eq_or_ne i j with rfl | hne
    · simp [hi]
    · simp [hne, hne.symm]

theorem coef_fix {r pos : Poly} (hr : r.length = 255) (hpos : ∀ j ∈ pos, j.toNat ≤ 254) (hnodup : pos.Nodup)
    (mag : Symbol → Symbol) {j : Nat} (hj : j < 255) :
    coef (fix r pos (pos.map mag)) j =
      coef r j ^^^ if BitVec.ofNat 8 j ∈ pos then mag (BitVec.ofNat 8 j) else 0#8 := by
  have hindex : 254 - (254 - j) = j := by omega
  have hlookup : ∀ x : Symbol, x.toNat + (254 - j) = 254 ↔ x = BitVec.ofNat 8 j := by
    intro x
    rw [← BitVec.toNat_inj, toNat_ofNat_position hj]
    omega
  have h255 : 255#8 ∉ pos := fun h => absurd (hpos _ h) (by decide)
  have hfix := fix_getD (q := 254 - j) hr (List.length_map mag).symm h255 (by omega)
  rw [getD_eq_coef (by simpa using hr) (by omega), getD_eq_coef hr (by omega), hindex] at hfix
  simp only [hfix, hlookup, xorSum_lookup hnodup]

theorem nodup_rootPositions (lam : Poly) : (rootPositions lam).Nodup :=
  (pairwise_rootPositions lam).imp fun {x y} hlt heq => by
    rw [heq] at hlt
    exact lt_irrefl _ hlt

/-- Correcting by the differences at the error positions gives the codeword. -/
theorem fix_eq_of_mem_iff {r c pos : Poly} (hr : r.length = 255) (hc : c.length = 255) (hnodup : pos.Nodup)
    (hpos : ∀ j : Symbol, j ∈ pos ↔ j.toNat ∈ errorPositions r c) :
    fix r pos (pos.map fun j => coef r j.toNat ^^^ coef c j.toNat) = c := by
  have hlt : ∀ j ∈ pos, j.toNat ≤ 254 := fun j hj =>
    Nat.le_of_lt_succ (lt_of_mem_errorPositions ((hpos j).mp hj))
  refine eq_of_coef_eq (by simpa using hr) hc fun j hj => ?_
  rw [coef_fix hr hlt hnodup _ hj, toNat_ofNat_position hj]
  split
  · rw [← BitVec.xor_assoc, BitVec.xor_self, BitVec.zero_xor]
  · next h =>
    rw [hpos, toNat_ofNat_position hj, mem_errorPositions] at h
    rw [BitVec.xor_zero]
    by_contra hne
    exact h ⟨hj, hne⟩

/-! ### The stages of the decoder put together (R210) -/

theorem correctWord_of_stages {r S lam pos mag : Poly} (hlam : bm S = some lam) (hpos : chien lam = some pos)
    (hmag : forney S lam pos = some mag) (hzero : allZero (syndromes (fix r pos mag) S.length) = true) :
    correctWord r S = some (fix r pos mag, pos.length) := by
  simp [correctWord, hlam, hpos, hmag, hzero]

theorem decodeBlock_of_correctWord {r w : Poly} {k n : Nat} (hsyn : allZero (syndromes r (255 - k)) ≠ true)
    (h : correctWord r (syndromes r (255 - k)) = some (w, n)) : decodeBlock r k = some (w.take k, n) := by
  simp [decodeBlock, hsyn, h]

/-! ### The locator of `bm` (R187 to R189) -/

theorem coef_map_range_sub (n : Nat) (f : Nat → Symbol) (e : Nat) :
    coef ((List.range (n + 1)).map fun i => f (n - i)) e = if e ≤ n then f e else 0#8 := by
  rcases Nat.lt_or_ge n e with hlt | hle
  · rw [coef_of_length_le (by simpa using hlt), if_neg (Nat.not_le.mpr hlt)]
  · have hindex : n - (n - e) = e := by omega
    rw [coef, List.length_map, List.length_range, if_pos (Nat.lt_succ_of_le hle), if_pos hle,
      List.getD_eq_getElem _ _ (by simp)]
    simp [hindex]

section
variable {F : Type} [Field F] {φ : Symbol → F} (hφ : IsSymbolEmbedding φ)
include hφ

/-- `bm` succeeds when some recurrence is short enough, with one that is no longer. -/
theorem exists_bm {S σ : PowerSeries F} {s : Poly} {L : Nat}
    (hs : ∀ n < s.length, φ (s.getD n 0#8) = PowerSeries.coeff n S) (hσ : IsRecurrence S s.length L σ)
    (hL : L ≤ s.length / 2) :
    ∃ lam, bm s = some lam ∧ 1 ≤ lam.length ∧ lam.length - 1 ≤ L ∧
      IsRecurrence S s.length (lam.length - 1) (toPolynomial φ lam) := by
  obtain ⟨-, hinv⟩ := bmTracks_bmRun hφ hs
  have hle := hinv.le_of_isRecurrence hσ
  obtain ⟨-, hrec, -⟩ := hinv
  refine ⟨_, if_neg (by omega), by simp, by simpa using hle, ?_⟩
  rw [List.length_map, List.length_range, Nat.add_sub_cancel]
  convert hrec using 1
  ext e
  rw [Polynomial.coeff_coe, coeff_toPolynomial hφ, coef_map_range_sub (bmRun s).len fun i => (bmRun s).conn.getD i 0#8]
  split
  · rw [coeff_toSeries]
  · next h =>
    obtain ⟨-, hdegree, -⟩ := hrec
    rw [hφ.map_zero, hdegree e (Nat.not_le.mp h)]

/-! ### The error pattern of a word (R181) -/

/-- The locator of position j, α^j. -/
def locatorAt (φ : Symbol → F) (j : Nat) : F := φ (alphaPow j)

/-- The magnitude at position j, by which `r` differs from `c`. -/
def errorAt (φ : Symbol → F) (r c : Poly) (j : Nat) : F := φ (coef r j ^^^ coef c j)

/-- The syndromes of the errors of `r` against `c`. -/
noncomputable def errorSeries (φ : Symbol → F) (r c : Poly) : PowerSeries F :=
  syndromeSeries (errorPositions r c) (locatorAt φ) (errorAt φ r c)

theorem locatorAt_ne_zero (j : Nat) : locatorAt φ j ≠ 0 := hφ.map_alphaPow_ne_zero j

theorem injOn_locatorAt : Set.InjOn (locatorAt φ) {j | j < 255} := by
  intro i hi j hj h
  have hfin : Fin.ofNat 255 i = Fin.ofNat 255 j := alog_injective (hφ.injective h)
  simpa [Nat.mod_eq_of_lt hi, Nat.mod_eq_of_lt hj] using congrArg Fin.val hfin

theorem injOn_locatorAt_errorPositions (r c : Poly) : Set.InjOn (locatorAt φ) (errorPositions r c) :=
  (injOn_locatorAt hφ).mono fun _ hj => lt_of_mem_errorPositions hj

theorem isErrorPattern (r c : Poly) : IsErrorPattern (errorPositions r c) (locatorAt φ) (errorAt φ r c) :=
  ⟨locatorAt_ne_zero hφ, injOn_locatorAt_errorPositions hφ r c, fun _ hj =>
    mt hφ.map_eq_zero.mp (mt BitVec.xor_eq_zero_iff.mp (coef_ne_of_mem_errorPositions hj))⟩

/-- The syndromes depend on the errors only (R182). -/
theorem map_syndromes_getD {r c : Poly} {m : Nat} (hr : r.length = 255) (hc : c.length = 255)
    (hcode : ∀ i, i < m → polyEval c (alphaPow i) = 0#8) {n : Nat} (hn : n < m) :
    φ ((syndromes r m).getD n 0#8) = PowerSeries.coeff n (errorSeries φ r c) := by
  have herror : polyEval r (alphaPow n) = polyEval (polyAdd r c) (alphaPow n) := by
    rw [polyEval_polyAdd, hcode n hn, BitVec.xor_zero]
  have hpow : ∀ e, φ (alphaPow n) ^ e = φ (alphaPow e) ^ n := fun e => by
    rw [← hφ.map_alphaPow, ← hφ.map_alphaPow, Nat.mul_comm]
  have hterm : ∀ e, φ (xmul (coef (polyAdd r c) e) (xpow (alphaPow n) e)) =
      φ (coef r e ^^^ coef c e) * φ (alphaPow e) ^ n := fun e => by
    rw [coef_polyAdd, ← gfMul_eq_xmul, hφ.map_gfMul, hφ.map_xpow, hpow]
  rw [syndromes_getD r hn, herror, polyEval_eq_xorSum, polyAdd_length, hr, hc, max_self, hφ.map_xorSum,
    errorSeries, syndromeSeries, PowerSeries.coeff_mk]
  simp only [hterm, locatorAt, errorAt, errorPositions]
  refine (Finset.sum_filter_of_ne (p := fun e => coef r e ≠ coef c e) fun e _ hne heq => hne ?_).symm
  rw [heq, BitVec.xor_self, hφ.map_zero, zero_mul]

/-- All syndromes are zero only when nothing is altered. -/
theorem allZero_syndromes_iff_errorPositions {r c : Poly} {m : Nat} (hr : r.length = 255) (hc : c.length = 255)
    (hcode : ∀ i, i < m → polyEval c (alphaPow i) = 0#8) (hm : 2 * (errorPositions r c).card ≤ m) :
    allZero (syndromes r m) = true ↔ errorPositions r c = ∅ := by
  rw [allZero_syndromes_iff]
  constructor
  · intro hzero
    have hvanishes := (isErrorPattern hφ r c).eval_eq_zero_of_vanishes (Λ := 1) (by simp) fun n _ hn => by
      have hn' : n < m := hn.trans_le hm
      rw [Polynomial.coe_one, one_mul, ← errorSeries, ← map_syndromes_getD hφ hr hc hcode hn', syndromes_getD r hn',
        hzero n hn', hφ.map_zero]
    refine Finset.eq_empty_of_forall_notMem fun j hj => ?_
    simpa using hvanishes j hj
  · intro hempty
    rw [eq_of_errorPositions_eq_empty hr hc hempty]
    exact hcode

/-! ### The stages on a word within the bound -/

theorem map_lambdaPrimeAt (lam : Poly) (x : Symbol) :
    φ (lambdaPrimeAt lam x) = (Polynomial.derivative (toPolynomial φ lam)).eval (φ x) := by
  rw [← polyEval_derivative, ← eval_toPolynomial hφ, toPolynomial_derivative hφ]

theorem map_omegaAt {S : PowerSeries F} {s lam : Poly}
    (hs : ∀ n < s.length, φ (s.getD n 0#8) = PowerSeries.coeff n S) (x : Symbol) :
    φ (omegaAt s lam x) = ∑ c ∈ Finset.range s.length,
      PowerSeries.coeff c ((toPolynomial φ lam : PowerSeries F) * S) * φ x ^ c := by
  have hdegree : ∀ i, lam.length ≤ i → PowerSeries.coeff i (toPolynomial φ lam : PowerSeries F) = 0 := fun i hi => by
    rw [Polynomial.coeff_coe, coeff_toPolynomial hφ, coef_of_length_le hi, hφ.map_zero]
  rw [omegaAt, hφ.map_xorSum]
  refine Finset.sum_congr rfl fun c hc => ?_
  rw [← gfMul_eq_xmul, hφ.map_gfMul, hφ.map_xpow, hφ.map_xorSum, coeff_mul_eq_sum_range hdegree]
  congr 1
  refine Finset.sum_congr rfl fun i _ => ?_
  rw [← gfMul_eq_xmul, hφ.map_gfMul, Polynomial.coeff_coe, coeff_toPolynomial hφ,
    hs _ ((Nat.sub_le c i).trans_lt (Finset.mem_range.mp hc))]

section
variable {r c lam : Poly} (hlam : IsErrorLocator (errorPositions r c) (locatorAt φ) (toPolynomial φ lam))
include hlam

/-- The roots of an error locator are at the error positions. -/
theorem polyEval_eq_zero_iff_mem_errorPositions {j : Nat} (hj : j < 255) :
    polyEval lam (alphaPowNeg j) = 0#8 ↔ j ∈ errorPositions r c := by
  have hinj := injOn_locatorAt_errorPositions hφ r c
  rw [← hφ.map_eq_zero, ← eval_toPolynomial hφ, IsErrorLocator.eval_eq_zero_iff hinj hlam, hφ.map_alphaPowNeg hj.le]
  constructor
  · rintro ⟨i, hi, heq⟩
    obtain rfl := injOn_locatorAt hφ (lt_of_mem_errorPositions hi) hj (inv_injective heq)
    exact hi
  · exact fun h => ⟨j, h, rfl⟩

theorem mem_rootPositions_iff_mem_errorPositions {j : Symbol} :
    j ∈ rootPositions lam ↔ j.toNat ∈ errorPositions r c := by
  rw [mem_rootPositions]
  constructor
  · rintro ⟨hj, hroot⟩
    exact (polyEval_eq_zero_iff_mem_errorPositions hφ hlam (by omega)).mp hroot
  · intro h
    have hj := lt_of_mem_errorPositions h
    exact ⟨by omega, (polyEval_eq_zero_iff_mem_errorPositions hφ hlam hj).mpr h⟩

theorem rootPositions_length_eq_card : (rootPositions lam).length = (errorPositions r c).card := by
  have hfilter : (List.range 255).filter (fun j => polyEval lam (alphaPowNeg j) = 0#8) =
      (List.range 255).filter (fun j => coef r j ≠ coef c j) :=
    List.filter_congr fun j hj => by
      have hj' : j < 255 := List.mem_range.mp hj
      rw [decide_eq_decide, polyEval_eq_zero_iff_mem_errorPositions hφ hlam hj', mem_errorPositions]
      exact and_iff_right hj'
  rw [rootPositions_length, hfilter]
  rfl

/-- Forney's formula gives the difference of the two words (R202). -/
theorem magnitude_eq_some_xor {s : Poly}
    (hs : ∀ n < s.length, φ (s.getD n 0#8) = PowerSeries.coeff n (errorSeries φ r c))
    (hcard : (errorPositions r c).card ≤ s.length) {j : Nat} (hj : j ∈ errorPositions r c) :
    magnitude s lam j = some (coef r j ^^^ coef c j) := by
  have hchar := hφ.charTwo
  have hinj := injOn_locatorAt_errorPositions hφ r c
  have hinv := hφ.map_alphaPowNeg (lt_of_mem_errorPositions hj).le
  have hprime : lambdaPrimeAt lam (alphaPowNeg j) ≠ 0#8 := by
    rw [Ne, ← hφ.map_eq_zero, map_lambdaPrimeAt hφ, hinv]
    exact IsErrorLocator.eval_derivative_ne_zero hinj hlam hj
  refine (magnitude_eq_some_iff hprime _).mpr (hφ.injective ?_)
  rw [← gfMul_eq_xmul, ← gfMul_eq_xmul, hφ.map_gfMul, hφ.map_gfMul, map_lambdaPrimeAt hφ, map_omegaAt hφ hs, hinv]
  have hforney := IsErrorLocator.locator_mul_evaluator (value := errorAt φ r c) (locatorAt_ne_zero hφ) hinj hlam
    hcard hj
  rw [CharTwo.neg_eq] at hforney
  exact hforney.symm

end

end

/-- R214 for `decode`: a word within the bound of a word `c` without syndromes decodes to the beginning of `c`. -/
theorem decodeBlock_of_errorPositions {r c : Poly} {k : Nat} (hr : r.length = 255) (hc : c.length = 255)
    (hcode : ∀ i, i < 255 - k → polyEval c (alphaPow i) = 0#8)
    (hbound : 2 * (errorPositions r c).card ≤ 255 - k) :
    decodeBlock r k = some (c.take k, (errorPositions r c).card) := by
  obtain ⟨F, _, φ, hφ⟩ := exists_symbolEmbedding
  have hempty := allZero_syndromes_iff_errorPositions hφ hr hc hcode hbound
  rcases (errorPositions r c).eq_empty_or_nonempty with hnone | hsome
  · obtain rfl := eq_of_errorPositions_eq_empty hr hc hnone
    rw [decodeBlock_of_syndromes_zero hcode, hnone, Finset.card_empty]
  have hs : ∀ n < (syndromes r (255 - k)).length, φ ((syndromes r (255 - k)).getD n 0#8) =
      PowerSeries.coeff n (errorSeries φ r c) := fun n hn =>
    map_syndromes_getD hφ hr hc hcode (by simpa using hn)
  obtain ⟨lam, hbm, hpos, hle, hrec⟩ := exists_bm hφ hs (isRecurrence_trueLocator (locatorAt_ne_zero hφ) _)
    (show (errorPositions r c).card ≤ _ by rw [syndromes_length]; omega)
  rw [syndromes_length] at hrec
  have hlam := (isErrorPattern hφ r c).isErrorLocator hrec hle hbound
  have hcount := rootPositions_length_eq_card hφ hlam
  have hdegree := natDegree_toPolynomial_le hφ lam
  rw [IsErrorLocator.natDegree_eq (injOn_locatorAt_errorPositions hφ r c) hlam] at hdegree
  have hmem := fun j : Symbol => mem_rootPositions_iff_mem_errorPositions hφ hlam (j := j)
  have hforney := forney_of_magnitude fun j hj =>
    magnitude_eq_some_xor hφ hlam hs (by rw [syndromes_length]; omega) ((hmem j).mp hj)
  have hfix := fix_eq_of_mem_iff hr hc (nodup_rootPositions lam) hmem
  refine decodeBlock_of_correctWord (fun h => hsome.ne_empty (hempty.mp h)) ?_
  rw [correctWord_of_stages hbm (chien_of_length (by omega)) hforney, hfix, hcount]
  rw [hfix, syndromes_length]
  exact (allZero_syndromes_iff c _).mpr hcode

/-! ### The obligation -/

/-- Settles O59: the word decodes to the data and the number of altered elements, and its syndromes are all zero only
when no element is altered. -/
theorem rsDecCorrectsUpToT : Obligations.RsDecCorrectsUpToT := by
  intro d a s data v hinv hcfgv hdata hlen hdist hv
  obtain ⟨hk, -⟩ := hinv.configured hcfgv
  obtain ⟨hc, htake, -, hcode, -⟩ := codewordProperties s.k.val data data hk (by omega) hdata hdata
  have hcard := distance_eq_card_errorPositions hlen hc
  rw [hdist] at hcard
  have hbound : 2 * (errorPositions (readP a s) (encodeBlock data s.k.val)).card ≤ 255 - s.k.val := by omega
  have hdecode := decodeBlock_of_errorPositions hlen hc hcode hbound
  rw [htake, ← hcard] at hdecode
  have hz : allZero (syndromes (readP a s) (255 - s.k.val)) = decide (v = 0) := by
    obtain ⟨F, _, φ, hφ⟩ := exists_symbolEmbedding
    rw [Bool.eq_iff_iff, allZero_syndromes_iff_errorPositions hφ hlen hc hcode hbound, decide_eq_true_iff, hcard,
      Finset.card_eq_zero]
  exact ⟨hdecode, by rw [exec_rsDec_of_decodeBlock hcfgv hlen hdecode, Option.elim_some, hz]⟩

end Sys2Proof.Machine
end

section
/-! The transfer and framing commands (spec/44_transfer_framer.md R230 to R238). Each command has one lemma for the word it
is encoded in and, where it makes a check, one equation for how it ends; the clauses of the statements are the branches of
that equation. -/

namespace Sys2Proof.Machine

/-! ### The words of the commands (R230 to R238) -/

theorem operandsPImm_wordI (f : PReg → Imm → Instr) (op : BitVec 8) (d : PReg) (imm : Imm) :
    operandsPImm f (wordI op (specP d) 0#4 imm) = .ok (f d imm) := by
  simp [operandsPImm, Bind.bind, Except.bind, pure, Except.pure]

theorem decode_wordI_of_operandsPImm {f : PReg → Imm → Instr} {op : BitVec 8}
    (hop : decodeOp op = operandsPImm f) (hwf : ∀ d imm, wellFormed (f d imm) = true) (d : PReg) (imm : Imm) :
    decode (wordI op (specP d) 0#4 imm) = .ok (f d imm) :=
  decode_eq_ok.mpr ⟨by rw [opField_wordI, hop, operandsPImm_wordI], hwf d imm⟩

theorem decode_pClr_word (d : PReg) : decode (wordR 0x30#8 (specP d) 0#4 0#4 0#4) = .ok (.pClr d) :=
  decode_eq_ok.mpr ⟨by rw [opField_wordR]; exact operandsP_wordR .pClr _ d, rfl⟩

theorem decodeOp_sLi {w : Word} (ha : aField w = 0#4) :
    decodeOp 0x10#8 w = .ok (.sLi (symReg (dField w)) (immField w)) :=
  mustBeZero_bind_eq_ok.mpr ⟨ha, rfl⟩

theorem decode_sLi_word (d : SReg) (imm : Imm) : decode (wordI 0x10#8 (specS d) 0#4 imm) = .ok (.sLi d imm) :=
  decode_eq_ok.mpr ⟨by simp [decodeOp_sLi], rfl⟩

theorem decodeOp_sGet {w : Word} (hlow : lowField w = 0#8) (hd : dField w = 0#4) (hb : bField w = 0#4)
    (hc : cField w = 0#4) : decodeOp 0x11#8 w = .ok (.sGet (symReg (aField w))) :=
  mustBeZero_bind_eq_ok.mpr ⟨hlow, mustBeZero_bind_eq_ok.mpr ⟨hd, mustBeZero_bind_eq_ok.mpr ⟨hb,
    mustBeZero_bind_eq_ok.mpr ⟨hc, rfl⟩⟩⟩⟩

theorem decode_sGet_word (a : SReg) : decode (wordR 0x11#8 0#4 (specS a) 0#4 0#4) = .ok (.sGet a) :=
  decode_eq_ok.mpr ⟨by simp [decodeOp_sGet], rfl⟩

theorem decodeOp_pGet {w : Word} {a : PReg} (hd : dField w = 0#4) (ha : specP a = aField w) :
    decodeOp 0x32#8 w = .ok (.pGet a (immField w)) :=
  mustBeZero_bind_eq_ok.mpr ⟨hd, polyReg_bind_eq_ok.mpr ⟨a, ha, rfl⟩⟩

theorem decode_pGet_word (a : PReg) (idx : Imm) : decode (wordI 0x32#8 0#4 (specP a) idx) = .ok (.pGet a idx) :=
  decode_eq_ok.mpr ⟨by rw [opField_wordI, decodeOp_pGet (a := a)] <;> simp, rfl⟩

theorem decodeOp_pLen {w : Word} {a : PReg} (hlow : lowField w = 0#8) (hd : dField w = 0#4) (hb : bField w = 0#4)
    (hc : cField w = 0#4) (ha : specP a = aField w) : decodeOp 0x33#8 w = .ok (.pLen a) :=
  mustBeZero_bind_eq_ok.mpr ⟨hlow, mustBeZero_bind_eq_ok.mpr ⟨hd, mustBeZero_bind_eq_ok.mpr ⟨hb,
    mustBeZero_bind_eq_ok.mpr ⟨hc, polyReg_bind_eq_ok.mpr ⟨a, ha, rfl⟩⟩⟩⟩⟩

theorem decode_pLen_word (a : PReg) : decode (wordR 0x33#8 0#4 (specP a) 0#4 0#4) = .ok (.pLen a) :=
  decode_eq_ok.mpr ⟨by rw [opField_wordR, decodeOp_pLen (a := a)] <;> simp, rfl⟩

/-! ### Immediates and data fields (R76, R77) -/

theorem immSymbol_of_lt {imm : Imm} (h : 255 < imm.toNat) : immSymbol imm = none := if_pos h

theorem immSymbol_of_le {imm : Imm} (h : imm.toNat ≤ 255) : immSymbol imm = some (BitVec.ofNat 8 imm.toNat) :=
  if_neg (Nat.not_lt.mpr h)

@[simp] theorem symData_toNat (v : Symbol) : (symData v).toNat = v.toNat :=
  BitVec.toNat_setWidth_of_le (by decide)

theorem countData_toNat {n : Nat} (h : n ≤ 512) : (countData n).toNat = n :=
  Nat.mod_eq_of_lt (by omega)

/-! ### How the commands end (R230, R233, R235, R238) -/

theorem exec_sLi (d : SReg) (imm : Imm) (s : State) :
    exec (.sLi d imm) s = (immSymbol imm).elim (raise .symbol s) fun v => done 0#16 (writeS d v s) := by
  change execSLi d imm s = _
  unfold execSLi
  cases immSymbol imm <;> rfl

theorem exec_pPush (d : PReg) (imm : Imm) (s : State) :
    exec (.pPush d imm) s = (immSymbol imm).elim (raise .symbol s) fun v =>
      if 512 ≤ (readP d s).length then raise .range s else done 0#16 (writeP d (readP d s ++ [v]) s) := by
  change execPPush d imm s = _
  unfold execPPush
  cases immSymbol imm <;> rfl

theorem exec_pGet (a : PReg) (idx : Imm) (s : State) :
    exec (.pGet a idx) s = ((readP a s)[idx.toNat]?).elim (raise .range s) fun v => done (symData v) s := by
  change execPGet a idx s = _
  unfold execPGet readElem
  cases (readP a s)[idx.toNat]? <;> rfl

theorem exec_pPadz (d : PReg) (len : Imm) (s : State) :
    exec (.pPadz d len) s = if len.toNat < (readP d s).length then raise .length s
      else if 512 < len.toNat then raise .range s
      else done 0#16 (writeP d (readP d s ++ zeros (len.toNat - (readP d s).length)) s) := rfl

/-! ### The obligations -/

/-- Settles O25: an immediate above 255 is no symbol and ends in `raise`; any other is the symbol written. -/
theorem sLiCommand : Obligations.SLiCommand := by
  intro d imm s
  refine ⟨decode_sLi_word d imm, fun himm => ?_, fun himm => ?_⟩
  · rw [exec_sLi, immSymbol_of_lt himm, Option.elim_none, raise_eq]
  · rw [exec_sLi, immSymbol_of_le himm, Option.elim_some, done_eq]

/-- Settles O26: both commands end in `done` on the state itself, and a symbol or a length fits in the data field. -/
theorem sGetAndPLenCommands : Obligations.SGetAndPLenCommands :=
  ⟨fun a s => ⟨decode_sGet_word a, symData (readS a s), symData_toNat _, done_eq _ _⟩, decode_pLen_word,
    fun a s hwf =>
      have hlen := countData_toNat (hwf a)
      ⟨countData (readP a s).length, hlen, hlen.trans_le (hwf a), done_eq _ _⟩⟩

/-- Settles O27: the command has no check and ends in `done`. -/
theorem pClrCommand : Obligations.PClrCommand := fun d _ => ⟨decode_pClr_word d, done_eq _ _⟩

/-- Settles O28: the symbol check comes first, then the capacity check; past both the symbol is appended. -/
theorem pPushCommand : Obligations.PPushCommand := by
  intro d imm s
  refine ⟨decode_wordI_of_operandsPImm rfl (fun _ _ => rfl) d imm, fun himm => ?_, fun himm hfull => ?_,
    fun himm hroom => ?_⟩
  · rw [exec_pPush, immSymbol_of_lt himm, Option.elim_none, raise_eq]
  · rw [exec_pPush, immSymbol_of_le himm, Option.elim_some, if_pos hfull, raise_eq]
  · rw [exec_pPush, immSymbol_of_le himm, Option.elim_some, if_neg (Nat.not_le.mpr hroom), done_eq]

/-- Settles O29: an index at or beyond the length has no element and ends in `raise`; any other answers its element. -/
theorem pGetCommand : Obligations.PGetCommand := by
  intro a idx s
  refine ⟨decode_pGet_word a idx, fun hbeyond => ?_, fun hidx => ⟨symData (readP a s)[idx.toNat], symData_toNat _, ?_⟩⟩
  · rw [exec_pGet, List.getElem?_eq_none hbeyond, Option.elim_none, raise_eq]
  · rw [exec_pGet, List.getElem?_eq_getElem hidx, Option.elim_some, done_eq]

/-- Settles O30: a target below the length ends in `raise`, then one above the capacity; any other is reached by zeros. -/
theorem pPadzCommand : Obligations.PPadzCommand := by
  intro d len s
  refine ⟨decode_wordI_of_operandsPImm rfl (fun _ _ => rfl) d len, fun hshort => ?_, fun hle hbig => ?_,
    fun hle hfits => ⟨?_, ?_⟩⟩
  · rw [exec_pPadz, if_pos hshort, raise_eq]
  · rw [exec_pPadz, if_neg (Nat.not_lt.mpr hle), if_pos hbig, raise_eq]
  · rw [exec_pPadz, if_neg (Nat.not_lt.mpr hle), if_neg (Nat.not_lt.mpr hfits), done_eq]
  · rw [List.length_append, List.length_replicate, Nat.add_sub_cancel' hle]

end Sys2Proof.Machine
end

section
/-! The system commands NOP, CSR.RD and CLRERR (spec/45_system.md R250 to R254). The fields of a control and status register
do not overlap, so OR-ing them shifted into place is the sum that the rules state. ES falls by CLRERR alone: the inversion
of `exec` leaves every other command only `raise`, which sets ES, and `done` on a state that has kept it. -/

namespace Sys2Proof.Machine

/-! ### The words of the commands (R250, R252, R254) -/

theorem decode_of_nonzero_field {w : Word} {n : Nat} {x : BitVec n} {f : Unit → Except DecodeError Instr}
    (hop : decodeOp (opField w) w = (mustBeZero x >>= f)) (hx : x ≠ 0#n) : decode w = .error .nonZeroField := by
  rw [decode, hop, mustBeZero_ne hx]
  rfl

theorem decode_of_zField_ne {w : Word} (hop : opField w = 0x00#8 ∨ opField w = 0x02#8) (hz : zField w ≠ 0#24) :
    decode w = .error .nonZeroField := by
  rcases hop with hop | hop
  · exact decode_of_nonzero_field (f := fun _ => .ok .nop) (by rw [hop]; rfl) hz
  · exact decode_of_nonzero_field (f := fun _ => .ok .clrErr) (by rw [hop]; rfl) hz

theorem decodeOp_csrRd {w : Word} (hd : dField w = 0#4) (ha : aField w = 0#4) :
    decodeOp 0x01#8 w = .ok (.csrRd (immField w)) :=
  mustBeZero_bind_eq_ok.mpr ⟨hd, mustBeZero_bind_eq_ok.mpr ⟨ha, rfl⟩⟩

theorem decode_csrRd_word (n : Imm) : decode (wordI 0x01#8 0#4 0#4 n) = checkOperands (.csrRd n) := by
  rw [decode, opField_wordI, decodeOp_csrRd (dField_wordI ..) (aField_wordI ..), immField_wordI]
  rfl

theorem checkOperands_csrRd (n : Imm) :
    checkOperands (.csrRd n) = if n ≤ 4#16 then .ok (.csrRd n) else .error .badCsr := by
  by_cases h : n ≤ 4#16 <;> simp [checkOperands, wellFormed, h]

/-! ### ES falls by CLRERR alone (R254) -/

theorem exec_keeps_es {i : Instr} {s t : State} (hi : i ≠ .clrErr) (hexec : exec i s = .next t) (hes : s.es = true) :
    t.es = true := by
  rcases exec_cases i s with ⟨c, -, -, hraise⟩ | ⟨v, u, hdone, -, hsame⟩
  · rw [next_of_raise (hraise.symm.trans hexec), respond_es, recordFailure_es]
  · rw [next_of_done (hdone.symm.trans hexec), respond_es, (hsame.error hi).1, hes]

/-! ### The values of the control and status registers (R34 to R39) -/

theorem bit_eq_toNat (b : Bool) : bit b = b.toNat := by cases b <;> rfl

/-- CFG: K is less than 2 ^ 8, so CFGV stands above it. -/
theorem csrCfg_eq (s : State) : csrCfg s = BitVec.ofNat 16 (256 * s.cfgv.toNat + s.k.val) := by
  have hk : s.k.val < 2 ^ 8 := s.k.isLt.trans (by decide)
  rw [csrCfg, bit_eq_toNat, ← Nat.shiftLeft_add_eq_or_of_lt hk, Nat.shiftLeft_eq, Nat.mul_comm]

/-- STATUS: Z is one bit and ES with Z two, so ES stands above Z and ECAUSE above both. -/
theorem csrStatus_eq (s : State) : csrStatus s =
    BitVec.ofNat 16 (256 * (causeCode s.ecause).toNat + 2 * s.es.toNat + s.z.toNat) := by
  have hz : s.z.toNat < 2 ^ 1 := Bool.toNat_lt _
  have hes : s.es.toNat < 2 := Bool.toNat_lt _
  have hflags : s.es.toNat <<< 1 + s.z.toNat < 2 ^ 8 := by omega
  rw [csrStatus, bit_eq_toNat, bit_eq_toNat, Nat.or_assoc, ← Nat.shiftLeft_add_eq_or_of_lt hz,
    ← Nat.shiftLeft_add_eq_or_of_lt hflags]
  congr 1
  omega

theorem readCsr_of_not_le {n : Imm} (h : ¬ n ≤ 4#16) (s : State) : readCsr n s = none := by
  have hlt : 4 < n.toNat := Nat.not_le.mp h
  unfold readCsr
  split
  case h_6 => rfl
  all_goals omega

/-! ### How CSR.RD ends (R252) -/

theorem exec_csrRd_of_some {n v : Imm} {s : State} (h : readCsr n s = some v) : exec (.csrRd n) s = done v s := by
  simp only [exec, execCsrRd, h]

theorem exec_csrRd_of_none {n : Imm} {s : State} (h : readCsr n s = none) : exec (.csrRd n) s = raise .illegal s := by
  simp only [exec, execCsrRd, h]

/-! ### The obligations -/

/-- Settles O23: both commands end in `done` and have one must-be-zero field, and no other command clears ES. -/
theorem nopAndClrErrCommands : Obligations.NopAndClrErrCommands :=
  ⟨by decide, by decide, fun _ => decode_of_zField_ne, by decide, fun s => done_eq 0#16 s,
    fun s => done_eq 0#16 (clearFailure s), fun _ _ _ => exec_keeps_es⟩

/-- Settles O24: each number up to 4 reads its register and ends in `done`; one above names no register. -/
theorem csrRdCommand : Obligations.CsrRdCommand := by
  refine ⟨fun n hn => ?_, fun n hn => ?_, fun s => ⟨?_, ?_, ?_, ?_, ?_, fun n hn => ?_⟩⟩
  · rw [decode_csrRd_word, checkOperands_csrRd, if_pos hn]
  · rw [decode_csrRd_word, checkOperands_csrRd, if_neg hn]
  · exact exec_csrRd_of_some (v := csrFieldId) rfl
  · exact exec_csrRd_of_some (congrArg some (csrCfg_eq s))
  · exact exec_csrRd_of_some (congrArg some (csrStatus_eq s))
  · exact exec_csrRd_of_some (v := csrNerr s) rfl
  · exact exec_csrRd_of_some (v := csrPcap) rfl
  · rw [exec_csrRd_of_none (readCsr_of_not_le hn s), raise_eq]

end Sys2Proof.Machine
end

section
/-! Failing commands (spec/60_exceptions.md R260, R264). The response word determines its cause and its data, so what a command
answers tells which way it ended: a cause other than 0 comes from the shared operation `raise` alone. -/

namespace Sys2Proof.Machine

/-! ### The response word (R76) -/

theorem responseWord_inj {c d : Cause} {v w : Imm} (h : responseWord c v = responseWord d w) : c = d ∧ v = w := by
  obtain ⟨hcause, -, hdata⟩ := responseWord_fields c v
  obtain ⟨hcause', -, hdata'⟩ := responseWord_fields d w
  rw [h] at hcause hdata
  exact ⟨causeCode_inj (hcause.symm.trans hcause'), hdata.symm.trans hdata'⟩

/-- With data 0 the word is the cause's code in bits 31:24. -/
theorem responseWord_no_data (c : Cause) : responseWord c 0#16 = BitVec.ofNat 32 ((causeCode c).toNat <<< 24) := by
  cases c <;> rfl

/-! ### How a command with a given answer ended -/

theorem eq_of_respond {s t : State} {c d : Cause} {v w : Imm} (hport : t.respPort = s.respPort)
    (h : (respond d w t).respPort = s.respPort ++ [responseWord c v]) : d = c ∧ w = v := by
  rw [respond_respPort, hport, List.append_cancel_left_eq, List.singleton_inj] at h
  exact responseWord_inj h

/-- The inversion of an answer: the command raised the cause it answers, or it is done with the data it answers. -/
theorem answers_cases {i : Instr} {s t : State} {c : Cause} {v : Imm} (h : Answers i s c v t) :
    (c ≠ .ok ∧ mayRaise c i = true ∧ v = 0#16 ∧ exec i s = raise c s) ∨
    (c = .ok ∧ ∃ u, exec i s = done v u ∧ (returnsData i = false → v = 0#16) ∧ Untouched i s u) := by
  obtain ⟨hexec, hresp⟩ := h
  rcases exec_cases i s with ⟨d, hd, hmay, hraise⟩ | ⟨w, u, hdone, hdata, hsame⟩
  · rw [next_of_raise (hraise.symm.trans hexec)] at hresp
    obtain ⟨rfl, rfl⟩ := eq_of_respond (recordFailure_respPort ..) hresp
    exact .inl ⟨hd, hmay, rfl, hraise⟩
  · rw [next_of_done (hdone.symm.trans hexec)] at hresp
    obtain ⟨rfl, rfl⟩ := eq_of_respond hsame.respPort hresp
    exact .inr ⟨rfl, u, hdone, hdata, hsame⟩

/-! ### The obligation -/

/-- Settles O14: a cause other than 0 leaves only the raising way of `answers_cases`, and `raise` writes the response and
the error record and nothing else. -/
theorem failureRecordsOnlyTheFirstCause : Obligations.FailureRecordsOnlyTheFirstCause := by
  intro i s t c v h hc
  rcases answers_cases h with ⟨-, -, rfl, hraise⟩ | ⟨hok, -⟩
  · exact ⟨rfl, responseWord_no_data c, next_of_raise (hraise.symm.trans h.1)⟩
  · exact absurd hok hc

end Sys2Proof.Machine
end

section
/-! The decoder and the encoder are inverse (spec/30_encoding.md R79 to R87). The word of a well-formed command decodes
to it, shape by shape; and a word with the fixed bits of a row of the opcode map is the word of some command, because
the mask of a field leaves it free, or 0, or a polynomial register's specifier. -/

namespace Sys2Proof.Machine

/-! ### The word of a well-formed command decodes to it -/

theorem decode_encode {i : Instr} (hwf : wellFormed i = true) : decode (encode i) = .ok i := by
  cases i
  case nop | clrErr => rfl
  case csrRd num =>
    have hnum : num ≤ 4#16 := of_decide_eq_true hwf
    exact (decode_csrRd_word num).trans ((checkOperands_csrRd num).trans (if_pos hnum))
  case sLi d imm => exact decode_sLi_word d imm
  case sGet a => exact decode_sGet_word a
  case gfAdd d a b | gfSub d a b | gfMul d a b | gfDiv d a b =>
    exact decode_wordR_of_operandsSSS rfl (fun _ _ _ => rfl) d a b
  case gfPow d a e => exact decode_gfPow_word d a e
  case gfInv d a => exact decode_gfInv_word d a
  case pClr d => exact decode_pClr_word d
  case pPush d imm | pPadz d imm => exact decode_wordI_of_operandsPImm rfl (fun _ _ => rfl) d imm
  case pGet a idx => exact decode_pGet_word a idx
  case pLen a => exact decode_pLen_word a
  case pAdd d a b | pSub d a b | pMul d a b | pMod d a b =>
    exact decode_wordR_of_operandsPPP rfl (fun _ _ _ => rfl) d a b
  case pDiv d a b c =>
    have hdc : d ≠ c := of_decide_eq_true hwf
    exact (decode_pDiv_word d a b c).trans ((checkOperands_pDiv d a b c).trans (if_neg hdc))
  case pEval d a b => exact decode_pEval_word d a b
  case rsCfg k => exact decode_rsCfg_word k
  case rsGen d => exact decode_rsGen_word d
  case rsEnc d a | rsSyn d a | rsBm d a | rsChien d a | rsDec d a =>
    exact decode_wordR_of_operandsPP rfl (fun _ _ => rfl) d a
  case rsForney d a b c | rsFix d a b c =>
    exact decode_wordR_of_operandsPPPP rfl (fun _ _ _ _ => rfl) d a b c

/-! ### What the fixed bits of a row say of the fields of a word -/

/-- A mask that is all ones keeps the whole field. -/
theorem eq_of_and_allOnes {n : Nat} {x y : BitVec n} (h : x &&& BitVec.allOnes n = y) : x = y :=
  BitVec.and_allOnes.symm.trans h

/-- A row that fixes the whole opcode, and of the other fields only that bits are 0. -/
abbrev FixesOpcode (fixed mask : Word) : Prop :=
  opField mask = BitVec.allOnes 8 ∧ fixed = wordR (opField fixed) 0 0 0 0

section
variable {w fixed mask : Word} (hrow : FixesOpcode fixed mask) (h : w &&& mask = fixed)
include hrow h

theorem opField_of_and_eq : opField w = opField fixed := by
  obtain ⟨hmask, -⟩ := hrow
  have hop : opField w &&& opField mask = opField fixed := BitVec.extractLsb'_and.symm.trans (congrArg opField h)
  rw [hmask] at hop
  exact eq_of_and_allOnes hop

theorem fields_of_and_eq :
    dField w &&& dField mask = 0#4 ∧ aField w &&& aField mask = 0#4 ∧ bField w &&& bField mask = 0#4 ∧
      cField w &&& cField mask = 0#4 ∧ lowField w &&& lowField mask = 0#8 := by
  obtain ⟨-, hfixed⟩ := hrow
  rw [hfixed] at h
  exact ⟨BitVec.extractLsb'_and.symm.trans ((congrArg dField h).trans (dField_wordR ..)),
    BitVec.extractLsb'_and.symm.trans ((congrArg aField h).trans (aField_wordR ..)),
    BitVec.extractLsb'_and.symm.trans ((congrArg bField h).trans (bField_wordR ..)),
    BitVec.extractLsb'_and.symm.trans ((congrArg cField h).trans (cField_wordR ..)),
    BitVec.extractLsb'_and.symm.trans ((congrArg lowField h).trans (lowField_wordR ..))⟩

end

/-! ### The three kinds of register fields (R78, R83, R86) -/

/-- A field that is 0 where `mask` is 1 holds one of the specifiers that `spec` makes. -/
def Fits {α : Type} (mask : BitVec 4) (spec : α → BitVec 4) : Prop := ∀ x, x &&& mask = 0#4 → ∃ r, spec r = x

theorem fits_symbol : Fits 0#4 specS := fun x _ => ⟨symReg x, specS_symReg x⟩

theorem fits_poly : Fits 8#4 specP := by
  change ∀ x : BitVec 4, x &&& 8#4 = 0#4 → ∃ r, specP r = x
  decide

theorem fits_zero : Fits 15#4 fun _ : Unit => 0#4 := fun _ hx => ⟨(), (eq_of_and_allOnes hx).symm⟩

/-! ### A word with the fixed bits of a row is the word of a command -/

section
variable {w fixed mask : Word} {α β γ δ : Type} {specD : α → BitVec 4} {specA : β → BitVec 4}
  {specB : γ → BitVec 4} {specC : δ → BitVec 4}

/-- Format I: the row fixes nothing of the immediate. -/
theorem exists_encode_wordI (h : w &&& mask = fixed) (hrow : FixesOpcode fixed mask)
    (hd : Fits (dField mask) specD) (ha : Fits (aField mask) specA) {f : α → β → Imm → Instr}
    (hf : ∀ d a imm, encode (f d a imm) = wordI (opField fixed) (specD d) (specA a) imm) :
    ∃ i, encode i = w := by
  obtain ⟨hd', ha', -⟩ := fields_of_and_eq hrow h
  obtain ⟨d, hd⟩ := hd _ hd'
  obtain ⟨a, ha⟩ := ha _ ha'
  exact ⟨f d a (immField w), by rw [hf, ← opField_of_and_eq hrow h, hd, ha, wordI_fields]⟩

/-- Format R: bits 7:0 must be zero. -/
theorem exists_encode_wordR (h : w &&& mask = fixed) (hrow : FixesOpcode fixed mask)
    (hlow : lowField mask = BitVec.allOnes 8) (hd : Fits (dField mask) specD) (ha : Fits (aField mask) specA)
    (hb : Fits (bField mask) specB) (hc : Fits (cField mask) specC) {f : α → β → γ → δ → Instr}
    (hf : ∀ d a b c, encode (f d a b c) = wordR (opField fixed) (specD d) (specA a) (specB b) (specC c)) :
    ∃ i, encode i = w := by
  obtain ⟨hd', ha', hb', hc', hlow'⟩ := fields_of_and_eq hrow h
  obtain ⟨d, hd⟩ := hd _ hd'
  obtain ⟨a, ha⟩ := ha _ ha'
  obtain ⟨b, hb⟩ := hb _ hb'
  obtain ⟨c, hc⟩ := hc _ hc'
  rw [hlow] at hlow'
  exact ⟨f d a b c, by
    rw [hf, ← opField_of_and_eq hrow h, hd, ha, hb, hc, wordR_fields (eq_of_and_allOnes hlow')]⟩

end

theorem exists_encode_of_mem_opcodeRows (w : Word) :
    ∀ row ∈ opcodeRows, w &&& row.2 = row.1 → ∃ i, encode i = w := by
  simp only [opcodeRows, List.cons_append, List.nil_append, List.forall_mem_cons, List.not_mem_nil, false_implies,
    implies_true, and_true]
  exact ⟨fun h => ⟨.nop, (eq_of_and_allOnes h).symm⟩,
    fun h => exists_encode_wordI h ⟨rfl, rfl⟩ fits_zero fits_zero (f := fun _ _ imm => .csrRd imm) fun _ _ _ => rfl,
    fun h => ⟨.clrErr, (eq_of_and_allOnes h).symm⟩,
    fun h => exists_encode_wordI h ⟨rfl, rfl⟩ fits_symbol fits_zero (f := fun d _ imm => .sLi d imm) fun _ _ _ => rfl,
    fun h => exists_encode_wordR h ⟨rfl, rfl⟩ rfl fits_zero fits_symbol fits_zero fits_zero
      (f := fun _ a _ _ => .sGet a) fun _ _ _ _ => rfl,
    fun h => exists_encode_wordR h ⟨rfl, rfl⟩ rfl fits_symbol fits_symbol fits_symbol fits_zero
      (f := fun d a b _ => .gfAdd d a b) fun _ _ _ _ => rfl,
    fun h => exists_encode_wordR h ⟨rfl, rfl⟩ rfl fits_symbol fits_symbol fits_symbol fits_zero
      (f := fun d a b _ => .gfSub d a b) fun _ _ _ _ => rfl,
    fun h => exists_encode_wordR h ⟨rfl, rfl⟩ rfl fits_symbol fits_symbol fits_symbol fits_zero
      (f := fun d a b _ => .gfMul d a b) fun _ _ _ _ => rfl,
    fun h => exists_encode_wordR h ⟨rfl, rfl⟩ rfl fits_symbol fits_symbol fits_symbol fits_zero
      (f := fun d a b _ => .gfDiv d a b) fun _ _ _ _ => rfl,
    fun h => exists_encode_wordI h ⟨rfl, rfl⟩ fits_symbol fits_symbol
      (f := fun d a imm => .gfPow d a imm) fun _ _ _ => rfl,
    fun h => exists_encode_wordR h ⟨rfl, rfl⟩ rfl fits_symbol fits_symbol fits_zero fits_zero
      (f := fun d a _ _ => .gfInv d a) fun _ _ _ _ => rfl,
    fun h => exists_encode_wordR h ⟨rfl, rfl⟩ rfl fits_poly fits_zero fits_zero fits_zero
      (f := fun d _ _ _ => .pClr d) fun _ _ _ _ => rfl,
    fun h => exists_encode_wordI h ⟨rfl, rfl⟩ fits_poly fits_zero (f := fun d _ imm => .pPush d imm) fun _ _ _ => rfl,
    fun h => exists_encode_wordI h ⟨rfl, rfl⟩ fits_zero fits_poly (f := fun _ a imm => .pGet a imm) fun _ _ _ => rfl,
    fun h => exists_encode_wordR h ⟨rfl, rfl⟩ rfl fits_zero fits_poly fits_zero fits_zero
      (f := fun _ a _ _ => .pLen a) fun _ _ _ _ => rfl,
    fun h => exists_encode_wordI h ⟨rfl, rfl⟩ fits_poly fits_zero (f := fun d _ imm => .pPadz d imm) fun _ _ _ => rfl,
    fun h => exists_encode_wordR h ⟨rfl, rfl⟩ rfl fits_poly fits_poly fits_poly fits_zero
      (f := fun d a b _ => .pAdd d a b) fun _ _ _ _ => rfl,
    fun h => exists_encode_wordR h ⟨rfl, rfl⟩ rfl fits_poly fits_poly fits_poly fits_zero
      (f := fun d a b _ => .pSub d a b) fun _ _ _ _ => rfl,
    fun h => exists_encode_wordR h ⟨rfl, rfl⟩ rfl fits_poly fits_poly fits_poly fits_zero
      (f := fun d a b _ => .pMul d a b) fun _ _ _ _ => rfl,
    fun h => exists_encode_wordR h ⟨rfl, rfl⟩ rfl fits_poly fits_poly fits_poly fits_poly
      (f := fun d a b c => .pDiv d a b c) fun _ _ _ _ => rfl,
    fun h => exists_encode_wordR h ⟨rfl, rfl⟩ rfl fits_poly fits_poly fits_poly fits_zero
      (f := fun d a b _ => .pMod d a b) fun _ _ _ _ => rfl,
    fun h => exists_encode_wordR h ⟨rfl, rfl⟩ rfl fits_symbol fits_poly fits_symbol fits_zero
      (f := fun d a b _ => .pEval d a b) fun _ _ _ _ => rfl,
    fun h => exists_encode_wordI h ⟨rfl, rfl⟩ fits_zero fits_zero (f := fun _ _ imm => .rsCfg imm) fun _ _ _ => rfl,
    fun h => exists_encode_wordR h ⟨rfl, rfl⟩ rfl fits_poly fits_zero fits_zero fits_zero
      (f := fun d _ _ _ => .rsGen d) fun _ _ _ _ => rfl,
    fun h => exists_encode_wordR h ⟨rfl, rfl⟩ rfl fits_poly fits_poly fits_zero fits_zero
      (f := fun d a _ _ => .rsEnc d a) fun _ _ _ _ => rfl,
    fun h => exists_encode_wordR h ⟨rfl, rfl⟩ rfl fits_poly fits_poly fits_zero fits_zero
      (f := fun d a _ _ => .rsSyn d a) fun _ _ _ _ => rfl,
    fun h => exists_encode_wordR h ⟨rfl, rfl⟩ rfl fits_poly fits_poly fits_zero fits_zero
      (f := fun d a _ _ => .rsBm d a) fun _ _ _ _ => rfl,
    fun h => exists_encode_wordR h ⟨rfl, rfl⟩ rfl fits_poly fits_poly fits_zero fits_zero
      (f := fun d a _ _ => .rsChien d a) fun _ _ _ _ => rfl,
    fun h => exists_encode_wordR h ⟨rfl, rfl⟩ rfl fits_poly fits_poly fits_poly fits_poly
      (f := fun d a b c => .rsForney d a b c) fun _ _ _ _ => rfl,
    fun h => exists_encode_wordR h ⟨rfl, rfl⟩ rfl fits_poly fits_poly fits_poly fits_poly
      (f := fun d a b c => .rsFix d a b c) fun _ _ _ _ => rfl,
    fun h => exists_encode_wordR h ⟨rfl, rfl⟩ rfl fits_poly fits_poly fits_zero fits_zero
      (f := fun d a _ _ => .rsDec d a) fun _ _ _ _ => rfl⟩

/-- The two conditions of a legal word beside its row are those of a well-formed command. -/
theorem wellFormed_of_legalWord_encode {i : Instr} (h : legalWord (encode i)) : wellFormed i = true := by
  obtain ⟨-, hdc, hcsr⟩ := h
  cases i
  case csrRd num => simpa [encode, wellFormed] using hcsr
  case pDiv d a b c =>
    refine decide_eq_true fun heq => hdc ?_
    simp [encode, heq]
  all_goals rfl

theorem exists_decode_of_legalWord {w : Word} (h : legalWord w) : ∃ i, decode w = .ok i := by
  obtain ⟨row, hmem, hrow⟩ := h.left
  obtain ⟨i, rfl⟩ := exists_encode_of_mem_opcodeRows w row hmem hrow
  exact ⟨i, decode_encode (wellFormed_of_legalWord_encode h)⟩

/-! ### The obligations -/

/-- Settles O2: the word of each command was made of the fields that its row of the decoder reads. -/
theorem decodeOfEncodeIsIdentity : Obligations.DecodeOfEncodeIsIdentity := fun _ => decode_encode

/-- Settles O3: decoding checks the command it found, and every row of the decoder reads all of the word. -/
theorem encodeOfDecodeIsIdentity : Obligations.EncodeOfDecodeIsIdentity := by
  intro w i h
  obtain ⟨-, hwf⟩ := decode_eq_ok.mp h
  exact ⟨hwf, encode_of_decode h⟩

/-- Settles O4: a legal word is the word of a well-formed command, and those words decode. -/
theorem decodeAcceptsExactlyLegalWords : Obligations.DecodeAcceptsExactlyLegalWords := by
  intro w
  refine ⟨⟨fun h => h.elim fun _ hi => legalWord_of_decode hi, exists_decode_of_legalWord⟩, ?_⟩
  cases decode w with
  | ok i => exact .inl ⟨i, rfl⟩
  | error e => exact .inr ⟨e, rfl⟩

/-- Settles O1: the decoder run on the fifteen words. -/
theorem decodeSpecExampleWords : Obligations.DecodeSpecExampleWords := by
  unfold Obligations.DecodeSpecExampleWords
  decide

/-- Settles O6: the case of `step` in which the decoder accepts. -/
theorem stepRunsDecodedCommand : Obligations.StepRunsDecodedCommand := fun _ _ _ _ hp hd => step_of_decode_ok hp hd

/-- Settles O7: the case of `step` in which no word can be taken. -/
theorem stepIdlesWithNoWordPending : Obligations.StepIdlesWithNoWordPending := by
  intro s hp
  rw [step, takeCommand_nil hp]

end Sys2Proof.Machine
end

section
/-! The frames of the commands (spec/10_state.md sections 3 to 7, spec/60_exceptions.md R260). Every command ends in one
of the two ways of `exec_cases`; a failure writes the error record alone, and what a success leaves as it was is
`Untouched`. The response stands in front of both, so the frames are read off the state behind it. -/

namespace Sys2Proof.Machine

/-- The inversion of a command's next state: the failure recorded, or a state in which the rest is untouched. -/
theorem exec_next_cases {i : Instr} {s t : State} (h : exec i s = .next t) :
    (∃ c, c ≠ .ok ∧ t = respond c 0#16 (recordFailure c s)) ∨ (∃ v u, t = respond .ok v u ∧ Untouched i s u) := by
  rcases exec_cases i s with ⟨c, hc, -, hraise⟩ | ⟨v, u, hdone, -, hsame⟩
  · exact .inl ⟨c, hc, next_of_raise (hraise.symm.trans h)⟩
  · exact .inr ⟨v, u, next_of_done (hdone.symm.trans h), hsame⟩

/-! ### The obligations -/

/-- Settles O9: both ways of `exec_cases` answer once, a failure with data 0, and the word's fields are disjoint. -/
theorem responseWordLayout : Obligations.ResponseWordLayout := by
  refine ⟨fun i s => ?_, fun c v t => ⟨respond_respPort c v t, responseWord_fields c v⟩⟩
  rcases exec_cases i s with ⟨c, -, -, hraise⟩ | ⟨v, t, hdone, hdata, hsame⟩
  · exact ⟨c, 0#16, recordFailure c s, hraise.trans (raise_eq c s), recordFailure_respPort c s, fun _ => rfl,
      fun _ => rfl⟩
  · exact ⟨.ok, v, t, hdone.trans (done_eq v t), hsame.respPort, fun hok => absurd rfl hok, hdata⟩

/-- Settles O16: a failure keeps a record that stands, and a success of any other command does not touch it. -/
theorem onlyClrErrClearsTheErrorRecord : Obligations.OnlyClrErrClearsTheErrorRecord := by
  intro i s t hi hexec
  refine ⟨fun hes => ?_, fun v hanswer => ?_⟩
  · rcases exec_next_cases hexec with ⟨c, -, rfl⟩ | ⟨v, u, rfl, hsame⟩
    · simp [hes]
    · simpa [hes] using hsame.error hi
  · rcases answers_cases hanswer with ⟨hok, -⟩ | ⟨-, u, hdone, -, hsame⟩
    · exact absurd rfl hok
    · rw [next_of_done (hdone.symm.trans hexec)]
      exact hsame.error hi

/-- Settles O17: neither the response nor the error record is a register. -/
theorem symbolRegisterFrame : Obligations.SymbolRegisterFrame := by
  intro i s t r hexec hr
  rcases exec_next_cases hexec with ⟨c, -, rfl⟩ | ⟨v, u, rfl, hsame⟩
  · rw [readS_respond, readS_recordFailure]
  · rw [readS_respond, hsame.symbols r hr]

/-- Settles O18: an element is read from the whole value. -/
theorem polynomialRegisterFrame : Obligations.PolynomialRegisterFrame := by
  intro i s t r hexec hr
  have hread : readP r t = readP r s := by
    rcases exec_next_cases hexec with ⟨c, -, rfl⟩ | ⟨v, u, rfl, hsame⟩
    · rw [readP_respond, readP_recordFailure]
    · rw [readP_respond, hsame.polys r hr]
  exact ⟨hread, fun idx => by rw [readElem, readElem, hread]⟩

/-- Settles O19: a failure configures nothing, and of the successes RS.CFG alone does. -/
theorem configurationFrame : Obligations.ConfigurationFrame := by
  intro i s t hexec hi
  rcases exec_next_cases hexec with ⟨c, -, rfl⟩ | ⟨v, u, rfl, hsame⟩
  · simp
  · exact hsame.config hi

/-- Settles O20: a failure sets no flag, and of the successes the commands named alone do. -/
theorem flagFrame : Obligations.FlagFrame := by
  intro i s t hexec
  rcases exec_next_cases hexec with ⟨c, -, rfl⟩ | ⟨v, u, rfl, hsame⟩
  · simp
  · exact ⟨hsame.z, hsame.nerr⟩

/-- Settles O22: a cause other than 0 was raised, and every command may answer 0. -/
theorem causesByCommand : Obligations.CausesByCommand := by
  intro i s t c v hanswer
  rcases answers_cases hanswer with ⟨-, hmay, -⟩ | ⟨rfl, -⟩
  · exact hmay
  · rfl

end Sys2Proof.Machine
end

section
/-! What a command does not read (spec/10_state.md section 6, spec/20_memory.md section 6). The error record and the two
ports stand outside of what a command computes with: no read of a register sees them and no write of one changes them.
So two states that differ outside alone come to the same end, but for what stands outside. CSR.RD alone reads the record,
and CLRERR alone writes it otherwise than `raise`. -/

namespace Sys2Proof.Machine

/-! ### How the commands with a test end, as one equation each -/

theorem exec_gfDiv (d a b : SReg) (s : State) :
    exec (.gfDiv d a b) s =
      (gfDiv (readS a s) (readS b s)).elim (raise .div0 s) fun q => done 0#16 (writeS d q s) := by
  change execGfDiv d a b s = _
  unfold execGfDiv
  cases gfDiv (readS a s) (readS b s) <;> rfl

theorem exec_gfInv (d a : SReg) (s : State) :
    exec (.gfInv d a) s = (gfInv (readS a s)).elim (raise .div0 s) fun v => done 0#16 (writeS d v s) := by
  change execGfInv d a s = _
  unfold execGfInv
  cases gfInv (readS a s) <;> rfl

theorem exec_pDiv (d a b c : PReg) (s : State) :
    exec (.pDiv d a b c) s = if d = c then raise .illegal s
      else (polyDivmod (readP a s) (readP b s)).elim (raise .div0 s)
        fun qr => done 0#16 (writeP c qr.2 (writeP d qr.1 s)) := by
  change execPDiv d a b c s = _
  unfold execPDiv
  cases polyDivmod (readP a s) (readP b s) <;> rfl

theorem exec_pMod (d a b : PReg) (s : State) :
    exec (.pMod d a b) s =
      (polyMod (readP a s) (readP b s)).elim (raise .div0 s) fun r => done 0#16 (writeP d r s) := by
  change execPMod d a b s = _
  unfold execPMod
  cases polyMod (readP a s) (readP b s) <;> rfl

/-- RS.DEC by the model's named updates. -/
theorem exec_rsDec_setNerr_setZ (d a : PReg) (s : State) :
    exec (.rsDec d a) s = if s.cfgv = false then raise .noCfg s
      else if (readP a s).length ≠ 255 then raise .length s
      else (decodeBlock (readP a s) s.k.val).elim (raise .uncorr s) fun dc => done (countData dc.2)
        (setNerr dc.2 (setZ (allZero (syndromes (readP a s) (255 - s.k.val))) (writeP d dc.1 s))) :=
  exec_rsDec d a s

/-! ### Commands and what stands outside of them -/

/-- `s` with the error record and the ports of `o`. -/
def withOutside (o s : State) : State :=
  { s with es := o.es, ecause := o.ecause, cmdPort := o.cmdPort, respPort := o.respPort }

/-- The ends `r` on `s` and `r'` on `s` with the outside of `o` are the same, and a success leaves the outside alone. -/
def SameEnd (o s : State) (r r' : Result) : Prop :=
  (∃ c, r = raise c s ∧ r' = raise c (withOutside o s)) ∨
  (∃ v t, withOutside s t = t ∧ r = done v t ∧ r' = done v (withOutside o t))

namespace SameEnd

variable {o s : State}

theorem raise (c : Cause) : SameEnd o s (raise c s) (Machine.raise c (withOutside o s)) := .inl ⟨c, rfl, rfl⟩

theorem done (v : Imm) (t : State) (h : withOutside s t = t) :
    SameEnd o s (done v t) (Machine.done v (withOutside o t)) :=
  .inr ⟨v, t, h, rfl, rfl⟩

theorem ite {p : Prop} [Decidable p] {a a' b b' : Result} (ha : SameEnd o s a a') (hb : SameEnd o s b b') :
    SameEnd o s (if p then a else b) (if p then a' else b') := by
  split
  · exact ha
  · exact hb

theorem elim {α : Type} {a a' : Result} {f f' : α → Result} (ha : SameEnd o s a a')
    (hf : ∀ x, SameEnd o s (f x) (f' x)) (x : Option α) : SameEnd o s (x.elim a f) (x.elim a' f') := by
  cases x with
  | none => exact ha
  | some x => exact hf x

end SameEnd

/-- The reads of the two runs are equal by definition, and so are their writes but for the outside. -/
theorem exec_sameEnd {i : Instr} (hcsr : ∀ n, i ≠ .csrRd n) (hclr : i ≠ .clrErr) (o s : State) :
    SameEnd o s (exec i s) (exec i (withOutside o s)) := by
  cases i
  case csrRd n => exact absurd rfl (hcsr n)
  case clrErr => exact absurd rfl hclr
  case nop | sGet | pLen => exact .done _ s rfl
  case gfAdd d a b | gfSub d a b | gfMul d a b => exact .done _ (writeS d _ s) rfl
  case gfPow d a e => exact .done _ (writeS d _ s) rfl
  case pEval d a b => exact .done _ (writeS d _ s) rfl
  case pClr d => exact .done _ (writeP d _ s) rfl
  case pAdd d a b | pSub d a b => exact .done _ (writeP d _ s) rfl
  case sLi d imm =>
    rw [exec_sLi, exec_sLi]
    exact .elim (.raise _) (fun v => .done _ (writeS d v s) rfl) _
  case gfDiv d a b =>
    rw [exec_gfDiv, exec_gfDiv]
    exact .elim (.raise _) (fun q => .done _ (writeS d q s) rfl) _
  case gfInv d a =>
    rw [exec_gfInv, exec_gfInv]
    exact .elim (.raise _) (fun v => .done _ (writeS d v s) rfl) _
  case pPush d imm =>
    rw [exec_pPush, exec_pPush]
    exact .elim (.raise _) (fun v => .ite (.raise _) (.done _ (writeP d (readP d s ++ [v]) s) rfl)) _
  case pGet a idx =>
    rw [exec_pGet, exec_pGet]
    exact .elim (.raise _) (fun v => .done _ s rfl) _
  case pPadz d len =>
    rw [exec_pPadz, exec_pPadz]
    exact .ite (.raise _) (.ite (.raise _) (.done _ (writeP d _ s) rfl))
  case pMul d a b =>
    rw [exec_pMul, exec_pMul]
    exact .ite (.raise _) (.done _ (writeP d _ s) rfl)
  case pDiv d a b c =>
    rw [exec_pDiv, exec_pDiv]
    exact .ite (.raise _) (.elim (.raise _) (fun (qr : Poly × Poly) => .done _ (writeP c qr.2 (writeP d qr.1 s)) rfl) _)
  case pMod d a b =>
    rw [exec_pMod, exec_pMod]
    exact .elim (.raise _) (fun r => .done _ (writeP d r s) rfl) _
  case rsCfg k =>
    rw [exec_rsCfg, exec_rsCfg]
    exact .ite (.raise _) (.done _ (configure k.toNat s) rfl)
  case rsGen d =>
    rw [exec_rsGen, exec_rsGen]
    exact .ite (.raise _) (.done _ (writeP d s.gen s) rfl)
  case rsEnc d a =>
    rw [exec_rsEnc, exec_rsEnc]
    exact .ite (.raise _) (.ite (.raise _) (.done _ (writeP d _ s) rfl))
  case rsSyn d a =>
    rw [exec_rsSyn, exec_rsSyn]
    exact .ite (.raise _) (.ite (.raise _) (.done _ (setZ _ (writeP d _ s)) rfl))
  case rsBm d a =>
    rw [exec_rsBm, exec_rsBm]
    exact .ite (.raise _) (.elim (.raise _) (fun lam => .done _ (writeP d lam s) rfl) _)
  case rsChien d a =>
    rw [exec_rsChien, exec_rsChien]
    exact .ite (.raise _) (.elim (.raise _) (fun pos => .done _ (writeP d pos s) rfl) _)
  case rsForney d a b c =>
    rw [exec_rsForney, exec_rsForney]
    exact .ite (.raise _) (.ite (.raise _) (.ite (.raise _)
      (.elim (.raise _) (fun mag => .done _ (writeP d mag s) rfl) _)))
  case rsFix d a b c =>
    rw [exec_rsFix, exec_rsFix]
    exact .ite (.raise _) (.ite (.raise _) (.ite (.raise _) (.done _ (writeP d _ s) rfl)))
  case rsDec d a =>
    rw [exec_rsDec_setNerr_setZ, exec_rsDec_setNerr_setZ]
    exact .ite (.raise _) (.ite (.raise _) (.elim (.raise _) (fun (dc : Poly × Nat) => .done _
      (setNerr dc.2 (setZ (allZero (syndromes (readP a s) (255 - s.k.val))) (writeP d dc.1 s))) rfl) _))

/-! ### The error record replaced, and the ports replaced -/

/-- The ports replaced. -/
def withPorts (cmds resps : List Word) (s : State) : State := { s with cmdPort := cmds, respPort := resps }

theorem withOutside_withPorts {s t : State} (h : withOutside s t = t) (cmds resps : List Word) :
    withOutside (withPorts cmds resps s) t = withPorts cmds resps t := by
  rw [← h]
  rfl

theorem ports_of_withOutside_eq {s t : State} (h : withOutside s t = t) :
    t.cmdPort = s.cmdPort ∧ t.respPort = s.respPort := by
  rw [← h]
  exact ⟨rfl, rfl⟩

/-- The error record written out: ES is set, and a cause that stands is kept. -/
theorem recordFailure_eq (c : Cause) (s : State) :
    recordFailure c s = { s with es := true, ecause := if s.es then s.ecause else c } := by
  apply State.ext_fields <;> simp

theorem recordFailure_withPorts (c : Cause) (cmds resps : List Word) (s : State) :
    recordFailure c (withPorts cmds resps s) = withPorts cmds resps (recordFailure c s) := by
  rw [recordFailure_eq, recordFailure_eq]
  rfl

/-- With the ports replaced, every command ends in the same way. -/
theorem exec_withPorts (i : Instr) (cmds resps : List Word) (s : State) :
    (∃ c, exec i s = raise c s ∧ exec i (withPorts cmds resps s) = raise c (withPorts cmds resps s)) ∨
    (∃ v t, t.cmdPort = s.cmdPort ∧ t.respPort = s.respPort ∧ exec i s = done v t ∧
      exec i (withPorts cmds resps s) = done v (withPorts cmds resps t)) := by
  by_cases hcsr : ∃ n, i = .csrRd n
  · obtain ⟨n, rfl⟩ := hcsr
    have hread : readCsr n (withPorts cmds resps s) = readCsr n s := rfl
    cases hv : readCsr n s with
    | none => exact .inl ⟨.illegal, exec_csrRd_of_none hv, exec_csrRd_of_none (hread.trans hv)⟩
    | some v => exact .inr ⟨v, s, rfl, rfl, exec_csrRd_of_some hv, exec_csrRd_of_some (hread.trans hv)⟩
  by_cases hclr : i = .clrErr
  · subst hclr
    exact .inr ⟨0#16, clearFailure s, rfl, rfl, rfl, rfl⟩
  rcases exec_sameEnd (fun n hn => hcsr ⟨n, hn⟩) hclr (withPorts cmds resps s) s with
    ⟨c, hraise, hraise'⟩ | ⟨v, t, hkeep, hdone, hdone'⟩
  · exact .inl ⟨c, hraise, hraise'⟩
  · obtain ⟨hcmd, hresp⟩ := ports_of_withOutside_eq hkeep
    refine .inr ⟨v, t, hcmd, hresp, hdone, ?_⟩
    rw [← withOutside_withPorts hkeep]
    exact hdone'

/-! ### The obligations -/

/-- Settles O15: CLRERR overwrites the record, and the other commands do not see it. -/
theorem errorRecordNeverSteersACommand : Obligations.ErrorRecordNeverSteersACommand := by
  intro i s e c hcsr
  by_cases hclr : i = .clrErr
  · subst hclr
    exact ⟨.ok, 0#16, clearFailure s, clearFailure s, done_eq _ _, done_eq _ _, rfl⟩
  rcases exec_sameEnd hcsr hclr { s with es := e, ecause := c } s with
    ⟨d, hraise, hraise'⟩ | ⟨v, t, hkeep, hdone, hdone'⟩
  · refine ⟨d, 0#16, recordFailure d s, _, hraise.trans (raise_eq d s), hraise'.trans (raise_eq d _), ?_⟩
    rw [recordFailure_eq, recordFailure_eq]
    rfl
  · refine ⟨.ok, v, t, _, hdone.trans (done_eq v t), hdone'.trans (done_eq v _), ?_⟩
    rw [← hkeep]
    rfl

/-- Settles O21: no command sees the ports, and both ways of ending leave them but for the response. -/
theorem commandDependsOnStateAndWordAlone : Obligations.CommandDependsOnStateAndWordAlone := by
  intro i s cmds resps
  rcases exec_withPorts i cmds resps s with ⟨c, hraise, hraise'⟩ | ⟨v, t, hcmd, hresp, hdone, hdone'⟩
  · refine ⟨c, 0#16, recordFailure c s, hraise.trans (raise_eq c s), recordFailure_cmdPort c s,
      recordFailure_respPort c s, hraise'.trans ?_⟩
    rw [raise_eq, recordFailure_withPorts]
    rfl
  · exact ⟨.ok, v, t, hdone.trans (done_eq v t), hcmd, hresp, hdone'.trans (done_eq v _)⟩

end Sys2Proof.Machine
end

section
/-! The invariant of the state (spec/10_state.md R44). It has three parts: the capacity of the polynomial registers, the
error record, and the configuration. Each is kept by the failure and by every success: a result that is written is never
longer than a register holds, the record changes by `raise` and CLRERR alone, and the configuration by RS.CFG alone. -/

namespace Sys2Proof.Machine

/-! ### Capacity (R26) -/

/-- Wherever the result goes on, the polynomial registers are within their capacity. -/
def EndsWf (r : Result) : Prop := ∀ t, r = .next t → t.pregWf

theorem EndsWf.raise {s : State} (hwf : s.pregWf) (c : Cause) : EndsWf (raise c s) := fun _ h => by
  rw [next_of_raise h]
  exact pregWf_of_preg_eq hwf (by simp)

theorem EndsWf.done {t : State} (hwf : t.pregWf) (v : Imm) : EndsWf (done v t) := fun _ h => by
  rw [next_of_done h]
  exact pregWf_of_preg_eq hwf (by simp)

theorem EndsWf.write {s : State} (hwf : s.pregWf) {q : Poly} (hq : q.length ≤ 512) (v : Imm) (d : PReg) :
    EndsWf (Machine.done v (writeP d q s)) :=
  .done (writeP_pregWf hwf d hq) v

theorem EndsWf.ite {p : Prop} [Decidable p] {a b : Result} (ha : p → EndsWf a) (hb : ¬ p → EndsWf b) :
    EndsWf (if p then a else b) := by
  split
  · next h => exact ha h
  · next h => exact hb h

theorem EndsWf.elim {α : Type} {a : Result} {f : α → Result} {x : Option α} (ha : EndsWf a)
    (hf : ∀ y, x = some y → EndsWf (f y)) : EndsWf (x.elim a f) := by
  cases x with
  | none => exact ha
  | some y => exact hf y rfl

theorem pregWf_of_untouched {i : Instr} {s u : State} (hwf : s.pregWf) (hi : destP i = []) (h : Untouched i s u) :
    u.pregWf := fun r => by
  rw [h.polys r (by simp [hi])]
  exact hwf r

/-- A command that writes no polynomial register. -/
theorem endsWf_of_destP_eq_nil {i : Instr} {s : State} (hwf : s.pregWf) (hi : destP i = []) : EndsWf (exec i s) := by
  rcases exec_cases i s with ⟨c, -, -, hraise⟩ | ⟨v, u, hdone, -, hsame⟩
  · rw [hraise]
    exact .raise hwf c
  · rw [hdone]
    exact .done (pregWf_of_untouched hwf hi hsame) v

theorem polyMul_length_le_of_not_productTooLong {a b : Poly} (h : ¬ productTooLong a b = true) :
    (polyMul a b).length ≤ 512 := by
  have hfits := mt (productTooLong_iff a b).mpr h
  rw [polyMul_length]
  split
  · exact Nat.zero_le _
  · next hpos =>
    obtain ⟨ha, hb⟩ := not_or.mp hpos
    rw [List.length_eq_zero_iff] at ha hb
    by_contra! hlong
    exact hfits ⟨ha, hb, hlong⟩

theorem polyDivmod_length_le {a b : Poly} {qr : Poly × Poly} (h : polyDivmod a b = some qr) :
    qr.1.length ≤ a.length ∧ qr.2.length ≤ a.length := by
  obtain ⟨hb, rfl⟩ := polyDivmod_some h
  exact polyLongDiv_length_le a b (length_ne_zero_of_not_badDivisor hb)

theorem polyMod_length_le {a b r : Poly} (h : polyMod a b = some r) : r.length ≤ a.length := by
  obtain ⟨qr, hqr, rfl⟩ := Option.map_eq_some_iff.mp h
  exact (polyDivmod_length_le hqr).2

/-- Every command keeps the registers within their capacity: one case for each way of making a result. -/
theorem exec_endsWf {s : State} (hinv : s.Inv) (i : Instr) : EndsWf (exec i s) := by
  have hwf : s.pregWf := hinv.left
  cases i
  case nop | csrRd | clrErr | sLi | sGet | gfAdd | gfSub | gfMul | gfDiv | gfPow | gfInv | pGet | pLen | pEval |
      rsCfg =>
    exact endsWf_of_destP_eq_nil hwf rfl
  case pClr d => exact .write hwf (Nat.zero_le _) _ d
  case pPush d imm =>
    rw [exec_pPush]
    refine .elim (.raise hwf _) fun v _ => .ite (fun _ => .raise hwf _) fun hroom => .write hwf ?_ _ d
    rw [List.length_append, List.length_singleton]
    omega
  case pPadz d len =>
    rw [exec_pPadz]
    refine .ite (fun _ => .raise hwf _) fun hle => .ite (fun _ => .raise hwf _) fun hfits => .write hwf ?_ _ d
    rw [List.length_append, List.length_replicate]
    omega
  case pAdd d a b | pSub d a b => exact .write hwf ((polyAdd_length _ _).trans_le (max_le (hwf a) (hwf b))) _ d
  case pMul d a b =>
    rw [exec_pMul]
    exact .ite (fun _ => .raise hwf _) fun h => .write hwf (polyMul_length_le_of_not_productTooLong h) _ d
  case pDiv d a b c =>
    rw [exec_pDiv]
    refine .ite (fun _ => .raise hwf _) fun _ => .elim (.raise hwf _) fun qr hqr => ?_
    obtain ⟨hq, hr⟩ := polyDivmod_length_le hqr
    exact .write (writeP_pregWf hwf d (hq.trans (hwf a))) (hr.trans (hwf a)) _ c
  case pMod d a b =>
    rw [exec_pMod]
    exact .elim (.raise hwf _) fun r hr => .write hwf ((polyMod_length_le hr).trans (hwf a)) _ d
  case rsGen d =>
    rw [exec_rsGen]
    refine .ite (fun _ => .raise hwf _) fun hcfgv => .write hwf ?_ _ d
    obtain ⟨-, hgen⟩ := hinv.configured (Bool.of_not_eq_false hcfgv)
    rw [hgen, genpoly_length]
    omega
  case rsEnc d a =>
    rw [exec_rsEnc]
    refine .ite (fun _ => .raise hwf _) fun hcfgv => .ite (fun _ => .raise hwf _) fun hlen => .write hwf ?_ _ d
    obtain ⟨hk, hgen⟩ := hinv.configured (Bool.of_not_eq_false hcfgv)
    have hdata : (readP a s).length = s.k.val := not_not.mp hlen
    rw [encodeWith_length (by rw [hgen, genpoly_length, hdata]) (by omega) (by omega)]
    decide
  case rsSyn d a =>
    rw [exec_rsSyn]
    refine .ite (fun _ => .raise hwf _) fun _ => .ite (fun _ => .raise hwf _) fun _ => .done ?_ _
    exact pregWf_of_preg_eq (writeP_pregWf hwf d (by rw [syndromes_length]; omega)) rfl
  case rsBm d a =>
    rw [exec_rsBm]
    refine .ite (fun _ => .raise hwf _) fun _ => .elim (.raise hwf _) fun lam hlam => .write hwf ?_ _ d
    have hle := hwf a
    have hlen := bm_length hlam
    omega
  case rsChien d a =>
    rw [exec_rsChien]
    exact .ite (fun _ => .raise hwf _) fun _ => .elim (.raise hwf _) fun pos hpos =>
      .write hwf ((chien_length_le hpos).trans (by decide)) _ d
  case rsForney d a b c =>
    rw [exec_rsForney]
    exact .ite (fun _ => .raise hwf _) fun _ => .ite (fun _ => .raise hwf _) fun _ => .ite (fun _ => .raise hwf _)
      fun _ => .elim (.raise hwf _) fun mag hmag => .write hwf ((forney_length hmag).trans_le (hwf c)) _ d
  case rsFix d a b c =>
    rw [exec_rsFix]
    exact .ite (fun _ => .raise hwf _) fun _ => .ite (fun _ => .raise hwf _) fun _ => .ite (fun _ => .raise hwf _)
      fun _ => .write hwf ((fix_length ..).trans_le (hwf a)) _ d
  case rsDec d a =>
    rw [exec_rsDec_setNerr_setZ]
    refine .ite (fun _ => .raise hwf _) fun _ => .ite (fun _ => .raise hwf _) fun _ =>
      .elim (.raise hwf _) fun dc hdc => .done ?_ _
    obtain ⟨hlen, -⟩ := decodeBlock_length hdc
    exact pregWf_of_preg_eq (writeP_pregWf hwf d (by rw [hlen]; omega)) rfl

/-! ### The error record (R30) and the configuration (R31, R32) -/

/-- ES is 0 exactly when no cause is recorded. -/
abbrev State.RecordInv (s : State) : Prop := (s.es = false → s.ecause = .ok) ∧ (s.es = true → s.ecause ≠ .ok)

/-- K and GEN are empty without a configuration, and with one GEN is the generator polynomial of K. -/
abbrev State.ConfigInv (s : State) : Prop :=
  (s.cfgv = false → s.k = 0 ∧ s.gen = []) ∧ (s.cfgv = true → 1 ≤ s.k.val ∧ s.gen = genpoly s.k.val)

theorem inv_iff {s : State} : s.Inv ↔ s.pregWf ∧ s.RecordInv ∧ s.ConfigInv := by
  constructor
  · rintro ⟨hwf, hclear, hset, hnone, hsome⟩
    exact ⟨hwf, ⟨hclear, hset⟩, hnone, hsome⟩
  · rintro ⟨hwf, ⟨hclear, hset⟩, hnone, hsome⟩
    exact ⟨hwf, hclear, hset, hnone, hsome⟩

theorem recordInv_of_raise {s : State} (h : s.RecordInv) {c : Cause} (hc : c ≠ .ok) (v : Imm) :
    (respond c v (recordFailure c s)).RecordInv := by
  obtain ⟨-, hes⟩ := h
  refine ⟨by simp, fun _ => ?_⟩
  rw [respond_ecause, recordFailure_ecause]
  split
  · next hes' => exact hes hes'
  · exact hc

theorem exec_recordInv {i : Instr} {s t : State} (h : s.RecordInv) (hexec : exec i s = .next t) : t.RecordInv := by
  by_cases hi : i = .clrErr
  · subst hi
    rw [next_of_done (s := clearFailure s) hexec]
    exact ⟨fun _ => rfl, fun hes => absurd hes Bool.false_ne_true⟩
  rcases exec_next_cases hexec with ⟨c, hc, rfl⟩ | ⟨v, u, rfl, hsame⟩
  · exact recordInv_of_raise h hc _
  · obtain ⟨hes, hcause⟩ := hsame.error hi
    obtain ⟨hclear, hset⟩ := h
    exact ⟨by simpa [hes, hcause] using hclear, by simpa [hes, hcause] using hset⟩

theorem configInv_of_eq {s t : State} (h : s.ConfigInv) (hk : t.k = s.k) (hcfgv : t.cfgv = s.cfgv)
    (hgen : t.gen = s.gen) : t.ConfigInv := by
  obtain ⟨hnone, hsome⟩ := h
  exact ⟨by rwa [hcfgv, hk, hgen], by rwa [hcfgv, hk, hgen]⟩

theorem configure_configInv {k : Nat} (hpos : k ≠ 0) (hlt : k < 255) (s : State) : (configure k s).ConfigInv := by
  rw [configure_of_lt hlt]
  exact ⟨fun h => absurd h Bool.true_eq_false.mp, fun _ => ⟨Nat.one_le_iff_ne_zero.mpr hpos, rfl⟩⟩

theorem exec_configInv {i : Instr} {s t : State} (h : s.ConfigInv) (hexec : exec i s = .next t) : t.ConfigInv := by
  cases hi : isCfg i with
  | false =>
    obtain ⟨hk, hcfgv, hgen⟩ := configurationFrame i s t hexec hi
    exact configInv_of_eq h hk hcfgv hgen
  | true =>
    cases i
    case rsCfg k =>
      rw [exec_rsCfg] at hexec
      split at hexec
      · rw [next_of_raise hexec]
        exact configInv_of_eq h (by simp) (by simp) (by simp)
      · rw [next_of_done hexec]
        exact configure_configInv (by omega) (by omega) s
    all_goals exact absurd hi Bool.false_ne_true

/-! ### The invariant -/

theorem inv_of_raise {s : State} (h : s.Inv) {c : Cause} (hc : c ≠ .ok) (v : Imm) :
    (respond c v (recordFailure c s)).Inv := by
  obtain ⟨hwf, hrecord, hconfig⟩ := inv_iff.mp h
  exact inv_iff.mpr ⟨pregWf_of_preg_eq hwf (by simp), recordInv_of_raise hrecord hc v,
    configInv_of_eq hconfig (by simp) (by simp) (by simp)⟩

theorem exec_inv {i : Instr} {s t : State} (h : s.Inv) (hexec : exec i s = .next t) : t.Inv := by
  obtain ⟨-, hrecord, hconfig⟩ := inv_iff.mp h
  exact inv_iff.mpr ⟨exec_endsWf h i t hexec, exec_recordInv hrecord hexec, exec_configInv hconfig hexec⟩

/-! ### The obligations -/

/-- Settles O12: at reset every register is empty, nothing is recorded and nothing configured. -/
theorem resetSatisfiesInvariant : Obligations.ResetSatisfiesInvariant := by
  refine inv_iff.mpr ⟨reset_pregWf, ⟨fun _ => rfl, fun h => ?_⟩, ⟨fun _ => ⟨rfl, rfl⟩, fun h => ?_⟩⟩
  · exact absurd h Bool.false_ne_true
  · exact absurd h Bool.false_ne_true

/-- Settles O13: a step idles, runs a command or raises E_ILLEGAL, and the invariant does not see the word taken. -/
theorem stepKeepsInvariant : Obligations.StepKeepsInvariant := by
  intro s t hinv hstep
  rcases step_cases hstep with ⟨-, rfl⟩ | ⟨w, rest, i, -, -, hexec⟩ | ⟨w, rest, e, -, -, rfl⟩
  · exact hinv
  · have htaken : State.Inv { s with cmdPort := rest } := hinv
    exact exec_inv htaken hexec
  · have htaken : State.Inv { s with cmdPort := rest } := hinv
    exact inv_of_raise htaken (by decide) _

end Sys2Proof.Machine
end

section
/-! The syndromes of a word are all zero exactly when it is a codeword (spec/42_encoder.md R167, spec/43_decoder.md
R182). The remainder of the word by the generator polynomial has the values of the word at the roots of that polynomial.
When they are all zero the remainder has as many roots as it has elements, so it is zero, and the word is the multiple
of the generator polynomial that begins with its data. -/

namespace Sys2Proof.Machine

/-- A polynomial that vanishes at as many powers of ALPHA as it has elements is zero. -/
theorem eq_zeros_of_polyEval_eq_zero {p : Poly} (hlen : p.length ≤ 255)
    (h : ∀ i, i < p.length → polyEval p (alphaPow i) = 0#8) : p = zeros p.length := by
  rcases Nat.eq_zero_or_pos p.length with hnil | hpos
  · rw [hnil]
    exact List.length_eq_zero_iff.mp hnil
  obtain ⟨F, _, φ, hφ⟩ := exists_symbolEmbedding
  have hinj : Function.Injective fun i : Fin p.length => locatorAt φ i := fun i j hij =>
    Fin.ext (injOn_locatorAt hφ (i.isLt.trans_le hlen) (j.isLt.trans_le hlen) hij)
  have hzero : toPolynomial φ p = 0 := by
    refine Polynomial.eq_zero_of_natDegree_lt_card_of_eval_eq_zero _ hinj (fun i => ?_) ?_
    · change (toPolynomial φ p).eval (φ (alphaPow i)) = 0
      rw [eval_toPolynomial hφ, h i i.isLt, hφ.map_zero]
    · have hdegree := natDegree_toPolynomial_le hφ p
      rw [Fintype.card_fin]
      omega
  have hcoef : ∀ e, coef p e = 0#8 := fun e => by
    rw [← hφ.map_eq_zero, ← coeff_toPolynomial hφ, hzero, Polynomial.coeff_zero]
  refine eq_of_weightedSum_eq (by simp) fun f => ?_
  rw [weightedSum_zeros, weightedSum_eq_xorSum (n := 0) fun e _ => by rw [hcoef, gfMul_zero_left], xorSum_zero]

/-- A word without syndromes leaves no remainder by the generator polynomial. -/
theorem exists_polyMul_genpoly_of_syndromes_zero {r : Poly} {k : Nat} (hpos : 1 ≤ k) (hk : k ≤ 255)
    (hr : r.length = 255) (h : ∀ i, i < 255 - k → polyEval r (alphaPow i) = 0#8) :
    ∃ q, polyMul q (genpoly k) = r := by
  have hdiv := polyDivmod_genpoly hk r
  obtain ⟨hq, hrem⟩ := polyLongDiv_length r (genpoly k) (by simp [genpoly_length])
  generalize polyLongDiv r (genpoly k) = qr at hdiv hq hrem
  obtain ⟨q, rem⟩ := qr
  simp only [hr, genpoly_length, if_neg (show ¬ 255 < 255 - k + 1 by omega)] at hq hrem
  have hzeros : rem = zeros rem.length := by
    refine eq_zeros_of_polyEval_eq_zero (by omega) fun i hi => ?_
    have hi' : i < 255 - k := by omega
    rw [← polyEval_remainder hdiv ((polyEval_genpoly_eq_zero hk _).mpr ⟨i, hi', rfl⟩), h i hi']
  have hidentity := polyDivmod_identity hdiv
  rw [hzeros, polyAdd_zeros] at hidentity
  · exact ⟨q, hidentity⟩
  · rw [polyMul_length, genpoly_length, if_neg (by omega)]
    omega

theorem eq_encodeBlock_of_syndromes_zero {r : Poly} {k : Nat} (hpos : 1 ≤ k) (hk : k ≤ 255) (hr : r.length = 255)
    (h : ∀ i, i < 255 - k → polyEval r (alphaPow i) = 0#8) : r = encodeBlock (r.take k) k := by
  obtain ⟨q, hq⟩ := exists_polyMul_genpoly_of_syndromes_zero hpos hk hr h
  have hsplit := (List.take_append_drop k r).symm
  exact hsplit.trans (encodeBlock_eq_append (by simp [hr, hk]) hk (by simp [hr]) (hq.trans hsplit)).symm

/-! ### The obligation -/

/-- Settles O50: without syndromes the word is the multiple of the generator polynomial that begins with its data; and
a codeword evaluates to zero at the roots. -/
theorem syndromesZeroIffCodeword : Obligations.SyndromesZeroIffCodeword := by
  intro k r hpos hk hr
  refine ⟨eq_encodeBlock_of_syndromes_zero hpos (hk.trans (by decide)) hr, fun hcode => ?_⟩
  have hdata : (r.take k).length = k := by
    rw [List.length_take, hr]
    omega
  obtain ⟨-, -, -, heval, -⟩ := codewordProperties k _ _ hpos hk hdata hdata
  rwa [← hcode] at heval

end Sys2Proof.Machine
end

section
/-! A linear recurrence of least length is unique when it is short enough (spec/43_decoder.md R186). The difference of
two recurrences of length L has no constant term. A polynomial that vanishes on the same indices and has no constant
term is x times one of lower degree that vanishes on the indices moved down by one; that it vanishes on the one index
this leaves out follows by commuting the product with a recurrence, when 2L is at most the number of indices; and it has
no constant term either, or it were a shorter recurrence. So the difference is zero. -/

namespace Sys2Proof.Machine

open PowerSeries

section
variable {F : Type} [Field F] {S C D : PowerSeries F} {m q L : Nat}

/-- `D` has degree at most `q`, and the coefficients of D·S vanish for the indices from `q` up to, and without, `m`. -/
abbrev VanishesFrom (S : PowerSeries F) (m q : Nat) (D : PowerSeries F) : Prop :=
  (∀ i, q < i → coeff i D = 0) ∧ ∀ n, q ≤ n → n < m → coeff n (D * S) = 0

theorem IsRecurrence.sub_vanishesFrom (hC : IsRecurrence S m L C) (hD : IsRecurrence S m L D) :
    coeff 0 (C - D) = 0 ∧ VanishesFrom S m L (C - D) := by
  obtain ⟨hone, hdegree, hvanishes⟩ := hC
  obtain ⟨hone', hdegree', hvanishes'⟩ := hD
  refine ⟨by rw [map_sub, hone, hone', sub_self], fun i hi => ?_, fun n hn hn' => ?_⟩
  · rw [map_sub, hdegree i hi, hdegree' i hi, sub_self]
  · rw [sub_mul, map_sub, hvanishes n hn hn', hvanishes' n hn hn', sub_self]

/-- With a constant term it is a multiple of a recurrence. -/
theorem VanishesFrom.isRecurrence (h : VanishesFrom S m q D) (hD : coeff 0 D ≠ 0) :
    IsRecurrence S m q (PowerSeries.C (coeff 0 D)⁻¹ * D) := by
  obtain ⟨hdegree, hvanishes⟩ := h
  refine ⟨?_, fun i hi => ?_, fun n hn hn' => ?_⟩
  · rw [coeff_C_mul, inv_mul_cancel₀ hD]
  · rw [coeff_C_mul, hdegree i hi, mul_zero]
  · rw [mul_assoc, coeff_C_mul, hvanishes n hn hn', mul_zero]

/-- The index above those on which D·S vanishes: the coefficient of C·D·S there is that of D·S by the recurrence of
C read from the left, and 0 by it read from the right. -/
theorem IsRecurrence.coeff_mul_eq_zero (hC : IsRecurrence S (m + 1) L C) (hq : q < L) (hm : 2 * L ≤ m + 1)
    (hdegree : ∀ i, q < i → coeff i D = 0) (hvanishes : ∀ n, q ≤ n → n < m → coeff n (D * S) = 0) :
    coeff m (D * S) = 0 := by
  obtain ⟨hone, hCdegree, hCvanishes⟩ := hC
  have hzero : coeff m (D * (C * S)) = 0 := by
    rw [coeff_mul]
    refine Finset.sum_eq_zero ?_
    rintro ⟨i, n⟩ hin
    have hsum : i + n = m := Finset.HasAntidiagonal.mem_antidiagonal.mp hin
    rcases Nat.lt_or_ge q i with hlarge | hsmall
    · rw [hdegree i hlarge, zero_mul]
    · rw [hCvanishes n (by omega) (by omega), mul_zero]
  have hhead : coeff m (C * (D * S)) = coeff m (D * S) := by
    rw [coeff_mul, Finset.sum_eq_single (0, m)]
    · rw [hone, one_mul]
    · rintro ⟨i, n⟩ hin hne
      have hsum : i + n = m := Finset.HasAntidiagonal.mem_antidiagonal.mp hin
      rcases Nat.lt_or_ge L i with hlarge | hsmall
      · rw [hCdegree i hlarge, zero_mul]
      · have hn : n ≠ m := by
          rintro rfl
          exact hne (by simp; omega)
        rw [hvanishes n (by omega) (by omega), mul_zero]
    · simp
  rw [← hhead, mul_left_comm, hzero]

/-- Below the least length nothing vanishes but 0, when the constant term is 0. -/
theorem IsRecurrence.eq_zero_of_vanishesFrom (hC : IsRecurrence S m L C) (hm : 2 * L ≤ m)
    (hleast : ∀ L' σ, IsRecurrence S m L' σ → L ≤ L') (hq : q ≤ L) (hD : coeff 0 D = 0)
    (h : VanishesFrom S m q D) : D = 0 := by
  induction q generalizing D with
  | zero =>
    obtain ⟨hdegree, -⟩ := h
    ext i
    rcases Nat.eq_zero_or_pos i with rfl | hi
    · exact hD
    · exact hdegree i hi
  | succ q ih =>
    obtain ⟨E, rfl⟩ := X_dvd_iff.mpr ((coeff_zero_eq_constantCoeff_apply D).symm.trans hD)
    obtain ⟨m, rfl⟩ : ∃ k, m = k + 1 := ⟨m - 1, by omega⟩
    obtain ⟨hdegree, hvanishes⟩ := h
    have hEdegree : ∀ i, q < i → coeff i E = 0 := fun i hi => by
      rw [← coeff_succ_X_mul, hdegree _ (Nat.succ_lt_succ hi)]
    have hEbelow : ∀ n, q ≤ n → n < m → coeff n (E * S) = 0 := fun n hn hn' => by
      rw [← coeff_succ_X_mul, ← mul_assoc, hvanishes _ (Nat.succ_le_succ hn) (Nat.succ_lt_succ hn')]
    have hE : VanishesFrom S (m + 1) q E := by
      refine ⟨hEdegree, fun n hn hn' => ?_⟩
      rcases Nat.lt_succ_iff_lt_or_eq.mp hn' with hlt | rfl
      · exact hEbelow n hn hlt
      · exact hC.coeff_mul_eq_zero hq hm hEdegree hEbelow
    have hE0 : coeff 0 E = 0 := by
      by_contra hne
      exact absurd (hleast q _ (hE.isRecurrence hne)) (Nat.not_le.mpr hq)
    rw [ih (Nat.le_of_succ_le hq) hE0 hE, mul_zero]

theorem IsRecurrence.unique (hC : IsRecurrence S m L C) (hD : IsRecurrence S m L D) (hm : 2 * L ≤ m)
    (hleast : ∀ L' σ, IsRecurrence S m L' σ → L ≤ L') : C = D := by
  obtain ⟨hzero, hvanishes⟩ := hC.sub_vanishesFrom hD
  exact sub_eq_zero.mp (hC.eq_zero_of_vanishesFrom hm hleast le_rfl hzero hvanishes)

end

/-! ### The recurrences of a syndrome vector (R186) -/

section
variable {F : Type} [Field F] {φ : Symbol → F} (hφ : IsSymbolEmbedding φ)

/-- The connection polynomial of the coefficients 0 to `L`. -/
noncomputable def connection (φ : Symbol → F) (L : Nat) (lam : Nat → Symbol) : PowerSeries F :=
  PowerSeries.mk fun i => if i ≤ L then φ (lam i) else 0

theorem coeff_connection {L i : Nat} (lam : Nat → Symbol) (h : i ≤ L) : coeff i (connection φ L lam) = φ (lam i) :=
  (coeff_mk i _).trans (if_pos h)

theorem coeff_connection_of_lt {L i : Nat} (lam : Nat → Symbol) (h : L < i) : coeff i (connection φ L lam) = 0 :=
  (coeff_mk i _).trans (if_neg (Nat.not_le.mpr h))

include hφ

/-- The sum of the recurrence at `n` is the coefficient of the product. -/
theorem map_recurrence_sum (s : Poly) {L n : Nat} (lam : Nat → Symbol) (h : L ≤ n) :
    φ (xorSum (L + 1) fun i => xmul (lam i) (s.getD (n - i) 0#8)) =
      coeff n (connection φ L lam * toSeries φ s) := by
  rw [coeff_mul_eq_sum_range (k := L + 1) fun i hi => coeff_connection_of_lt lam hi, Nat.add_sub_cancel,
    Nat.min_eq_right h, hφ.map_xorSum]
  refine Finset.sum_congr rfl fun i hi => ?_
  rw [← gfMul_eq_xmul, hφ.map_gfMul, coeff_connection lam (Finset.mem_range_succ_iff.mp hi), coeff_toSeries]

theorem recurs_iff (s : Poly) (L : Nat) (lam : Nat → Symbol) :
    Recurs s L lam ↔ IsRecurrence (toSeries φ s) s.length L (connection φ L lam) := by
  have hone : coeff 0 (connection φ L lam) = 1 ↔ lam 0 = 1#8 := by
    rw [coeff_connection lam L.zero_le, ← hφ.map_one]
    exact hφ.injective.eq_iff
  have hsum : ∀ n, L ≤ n → (xorSum (L + 1) (fun i => xmul (lam i) (s.getD (n - i) 0#8)) = 0#8 ↔
      coeff n (connection φ L lam * toSeries φ s) = 0) := fun n hn => by
    rw [← map_recurrence_sum hφ s lam hn, hφ.map_eq_zero]
  constructor
  · rintro ⟨h0, h⟩
    exact ⟨hone.mpr h0, fun i hi => coeff_connection_of_lt lam hi, fun n hn hn' => (hsum n hn).mp (h n hn hn')⟩
  · rintro ⟨h0, -, h⟩
    exact ⟨hone.mp h0, fun n hn hn' => (hsum n hn).mpr (h n hn hn')⟩

/-- The connection polynomial of the iteration has no entry beyond its length. -/
theorem connection_bmRun (s : Poly) :
    connection φ (bmRun s).len (fun i => (bmRun s).conn.getD i 0#8) = toSeries φ (bmRun s).conn := by
  obtain ⟨-, -, ⟨-, hdegree, -⟩, -⟩ := bmTracks_bmRun hφ (S := toSeries φ s) fun n _ => (coeff_toSeries φ s n).symm
  ext i
  rcases Nat.lt_or_ge (bmRun s).len i with hlarge | hsmall
  · rw [coeff_connection_of_lt _ hlarge, hdegree i hlarge]
  · rw [coeff_connection _ hsmall, coeff_toSeries]

end

/-! ### The obligation -/

/-- Settles O52: the iteration ends with a recurrence of least length, which is unique when it is short, and `bm` tests
that length. -/
theorem bmFindsTheLeastRecurrence : Obligations.BmFindsTheLeastRecurrence := by
  intro s _ _
  obtain ⟨F, _, φ, hφ⟩ := exists_symbolEmbedding
  obtain ⟨-, hinv⟩ := bmTracks_bmRun hφ (S := toSeries φ s) fun n _ => (coeff_toSeries φ s n).symm
  have hrec := hinv.right.left
  rw [← connection_bmRun hφ] at hrec
  refine ⟨(bmRun s).len, fun i => (bmRun s).conn.getD i 0#8, (recurs_iff hφ ..).mpr hrec, fun L lam h => ?_,
    fun hm lam h i hi => ?_, rfl⟩
  · exact hinv.le_of_isRecurrence ((recurs_iff hφ ..).mp h)
  · have hunique := ((recurs_iff hφ ..).mp h).unique hrec hm fun L σ => hinv.le_of_isRecurrence
    apply hφ.injective
    rw [← coeff_connection (φ := φ) lam hi, hunique, coeff_connection _ hi]

end Sys2Proof.Machine
end

section
/-! What RS.DEC answers (spec/43_decoder.md R210 to R215). `stages` is stages 2 to 5 put together. Without syndromes the
locator is 1, which has no roots, so the stages leave the word as it is: the decoder is the stages and the
re-verification in every case. What passes the re-verification is a codeword within the bound of the word; the decoder's
answer on such a word is known, so the count answered is the distance. -/

namespace Sys2Proof.Machine

/-! ### Stages 2 to 5 (R187 to R206) -/

/-- The positions and the corrected word, for the word `r` with the syndromes `S`. -/
def stages (r S : Poly) : Option (Poly × Poly) :=
  (bm S).bind fun lam => (chien lam).bind fun pos => (forney S lam pos).map fun mag => (pos, fix r pos mag)

theorem stages_eq (r S : Poly) : stages r S = (bm S).bind fun lam => (chien lam).bind fun pos =>
    (forney S lam pos).map fun mag => (pos, fix r pos mag) := rfl

theorem stages_eq_some_iff {r S pos w : Poly} : stages r S = some (pos, w) ↔
    ∃ lam mag, bm S = some lam ∧ chien lam = some pos ∧ forney S lam pos = some mag ∧ fix r pos mag = w := by
  simp only [stages_eq, Option.bind_eq_some_iff, Option.map_eq_some_iff, Prod.mk.injEq]
  constructor
  · rintro ⟨lam, hlam, _, hpos, mag, hmag, rfl, hw⟩
    exact ⟨lam, mag, hlam, hpos, hmag, hw⟩
  · rintro ⟨lam, mag, hlam, hpos, hmag, hw⟩
    exact ⟨lam, hlam, pos, hpos, mag, hmag, rfl, hw⟩

/-- The whole of the correction is the stages and the re-verification. -/
theorem correctWord_eq_stages (r S : Poly) : correctWord r S = (stages r S).bind fun pw =>
    if allZero (syndromes pw.2 S.length) then some (pw.2, pw.1.length) else none := by
  rw [stages_eq, correctWord]
  cases hlam : bm S with
  | none => rfl
  | some lam =>
    cases hpos : chien lam with
    | none => simp [hpos]
    | some pos => cases hmag : forney S lam pos <;> simp [hpos, hmag]

/-! ### A word without syndromes -/

theorem recurs_zero {S : Poly} (h : allZero S = true) : Recurs S 0 fun _ => 1#8 := by
  refine ⟨rfl, fun r _ hr => ?_⟩
  have hzero : S.getD r 0#8 = 0#8 := by
    rw [List.getD_eq_getElem _ _ hr]
    exact (allZero_iff S).mp h _ (List.getElem_mem hr)
  rw [xorSum_succ, xorSum_zero, Nat.sub_zero, hzero, xmul_zero_right, BitVec.xor_zero]

/-- The least recurrence of zero syndromes has length 0. -/
theorem bm_of_allZero {S : Poly} (hpos : 1 ≤ S.length) (hle : S.length ≤ 254) (h : allZero S = true) :
    bm S = some [1#8] := by
  obtain ⟨L, lam, ⟨hone, -⟩, hleast, -, hbm⟩ := bmFindsTheLeastRecurrence S hpos hle
  obtain rfl : L = 0 := Nat.le_zero.mp (hleast 0 _ (recurs_zero h))
  rw [hbm, if_neg (Nat.not_lt_zero _)]
  simp [hone]

theorem chien_one : chien [1#8] = some [] := by
  have hroots : rootPositions [1#8] = [] := List.eq_nil_iff_forall_not_mem.mpr fun j hj => by
    obtain ⟨-, hroot⟩ := mem_rootPositions.mp hj
    simp [polyEval, gfAdd] at hroot
  rw [chien_of_length (by rw [hroots]; rfl), hroots]

theorem stages_of_allZero {S : Poly} (hpos : 1 ≤ S.length) (hle : S.length ≤ 254) (h : allZero S = true) (r : Poly) :
    stages r S = some ([], r) :=
  stages_eq_some_iff.mpr ⟨_, _, bm_of_allZero hpos hle h, chien_one, rfl, rfl⟩

/-- The decoder is the stages and the re-verification, whether there are syndromes or not (R210). -/
theorem decodeBlock_eq_stages {k : Nat} (hpos : 1 ≤ k) (hk : k ≤ 254) (r : Poly) :
    decodeBlock r k = (stages r (syndromes r (255 - k))).bind fun pw =>
      if allZero (syndromes pw.2 (255 - k)) then some (pw.2.take k, pw.1.length) else none := by
  by_cases h : allZero (syndromes r (255 - k)) = true
  · have hstages := stages_of_allZero (by rw [syndromes_length]; omega) (by rw [syndromes_length]; omega) h r
    rw [hstages, Option.bind_some, if_pos h, decodeBlock_of_syndromes_zero ((allZero_syndromes_iff r _).mp h)]
    rfl
  · have hdecode : decodeBlock r k = (correctWord r (syndromes r (255 - k))).map fun wc => (wc.1.take k, wc.2) := by
      simp only [decodeBlock, Config.n, h]
      cases correctWord r (syndromes r (255 - k)) <;> rfl
    rw [hdecode, correctWord_eq_stages, syndromes_length]
    cases stages r (syndromes r (255 - k)) with
    | none => rfl
    | some pw =>
      rw [Option.bind_some, Option.bind_some]
      split <;> rfl

theorem decodeBlock_eq_some_iff {k : Nat} (hpos : 1 ≤ k) (hk : k ≤ 254) {r data : Poly} {n : Nat} :
    decodeBlock r k = some (data, n) ↔ ∃ pos w, stages r (syndromes r (255 - k)) = some (pos, w) ∧
      allZero (syndromes w (255 - k)) = true ∧ w.take k = data ∧ pos.length = n := by
  rw [decodeBlock_eq_stages hpos hk]
  cases stages r (syndromes r (255 - k)) with
  | none => simp
  | some pw =>
    obtain ⟨pos, w⟩ := pw
    by_cases h : allZero (syndromes w (255 - k)) = true <;> simp [h]

/-! ### The word that the stages come to -/

theorem fix_getD_of_forall_ne {r pos mag : Poly} {q : Nat} (h : ∀ j ∈ pos, 254 - j.toNat ≠ q) :
    (fix r pos mag).getD q 0#8 = r.getD q 0#8 := by
  induction pos generalizing r mag with
  | nil => rfl
  | cons j pos ih =>
    cases mag with
    | nil => rfl
    | cons e mag =>
      obtain ⟨hj, hrest⟩ := List.forall_mem_cons.mp h
      have hstep : fix r (j :: pos) (e :: mag) = fix (fixOne r (j, e)) pos mag := rfl
      rw [hstep, ih hrest, fixOne, List.getD_eq_getElem?_getD, List.getElem?_modify_ne _ _ hj,
        ← List.getD_eq_getElem?_getD]

/-- Correcting alters no more elements than there are positions. -/
theorem card_errorPositions_fix_le {r pos : Poly} (mag : Poly) (hr : r.length = 255) :
    (errorPositions r (fix r pos mag)).card ≤ pos.length := by
  have hfix : (fix r pos mag).length = 255 := by rw [fix_length, hr]
  have hsubset : errorPositions r (fix r pos mag) ⊆ (pos.map fun j => 254 - (254 - j.toNat)).toFinset := by
    intro e he
    have hlt := lt_of_mem_errorPositions he
    have hne := coef_ne_of_mem_errorPositions he
    have hindex : 254 - (254 - e) = e := by omega
    by_contra hmem
    have hsame := fix_getD_of_forall_ne (r := r) (pos := pos) (mag := mag) (q := 254 - e) fun j hj heq =>
      hmem (List.mem_toFinset.mpr (List.mem_map.mpr ⟨j, hj, by rw [heq, hindex]⟩))
    rw [getD_eq_coef hfix (by omega), getD_eq_coef hr (by omega), hindex] at hsame
    exact hne hsame.symm
  calc (errorPositions r (fix r pos mag)).card
    _ ≤ _ := Finset.card_le_card hsubset
    _ ≤ _ := List.toFinset_card_le _
    _ = pos.length := List.length_map _

theorem stages_bounds {r S pos w : Poly} (hr : r.length = 255) (h : stages r S = some (pos, w)) :
    w.length = 255 ∧ pos.length ≤ S.length / 2 ∧ (errorPositions r w).card ≤ pos.length := by
  obtain ⟨lam, mag, hlam, hpos, -, rfl⟩ := stages_eq_some_iff.mp h
  have hdegree := bm_length hlam
  have hcount := chien_length hpos
  exact ⟨by rw [fix_length, hr], by omega, card_errorPositions_fix_le mag hr⟩

/-- What the decoder answers belongs to a codeword, and the count is the distance from it (R215). -/
theorem exists_codeword_of_decodeBlock {r data : Poly} {k n : Nat} (hpos : 1 ≤ k) (hk : k ≤ 254)
    (hr : r.length = 255) (h : decodeBlock r k = some (data, n)) :
    ∃ w : Poly, w.length = 255 ∧ w = encodeBlock (w.take k) k ∧ data = w.take k ∧ distance r w = n := by
  obtain ⟨pos, w, hstages, hzero, hdata, hn⟩ := (decodeBlock_eq_some_iff hpos hk).mp h
  obtain ⟨hw, hcount, hcard⟩ := stages_bounds hr hstages
  rw [syndromes_length] at hcount
  have hcode := (allZero_syndromes_iff w _).mp hzero
  have hagain := decodeBlock_of_errorPositions hr hw hcode (by omega)
  rw [h, Option.some.injEq, Prod.mk.injEq] at hagain
  obtain ⟨-, hdistance⟩ := hagain
  exact ⟨w, hw, eq_encodeBlock_of_syndromes_zero hpos (by omega) hw hcode, hdata.symm,
    (distance_eq_card_errorPositions hr hw).trans hdistance.symm⟩

/-! ### When RS.DEC succeeds (R212) -/

theorem not_answers_ok_of_raise {i : Instr} {s t : State} {c : Cause} {v : Imm} (hc : c ≠ .ok)
    (h : exec i s = raise c s) : ¬ Answers i s .ok v t := by
  rintro ⟨hexec, hresp⟩
  rw [next_of_raise (h.symm.trans hexec)] at hresp
  obtain ⟨hok, -⟩ := eq_of_respond (recordFailure_respPort ..) hresp
  exact hc hok

/-- The inversion of a success of RS.DEC. -/
theorem rsDec_of_answers_ok {d a : PReg} {s t : State} {v : Imm} (h : Answers (.rsDec d a) s .ok v t) :
    s.cfgv = true ∧ (readP a s).length = 255 ∧
      ∃ data n, decodeBlock (readP a s) s.k.val = some (data, n) ∧ v = countData n ∧ readP d t = data := by
  by_cases hcfgv : s.cfgv = false
  · exact absurd h (not_answers_ok_of_raise (c := .noCfg) (by decide) (by rw [exec_rsDec, if_pos hcfgv]))
  by_cases hlen : (readP a s).length = 255
  · have hcfgv : s.cfgv = true := Bool.of_not_eq_false hcfgv
    cases hdecode : decodeBlock (readP a s) s.k.val with
    | none =>
      exact absurd h (not_answers_ok_of_raise (c := .uncorr) (by decide)
        (exec_rsDec_of_decodeBlock hcfgv hlen hdecode))
    | some dc =>
      obtain ⟨hexec, hresp⟩ := h
      rw [exec_rsDec_of_decodeBlock hcfgv hlen hdecode, Option.elim_some, Host.Outcome.next.injEq] at hexec
      rw [← hexec] at hresp ⊢
      obtain ⟨-, hv⟩ := eq_of_respond rfl hresp
      exact ⟨hcfgv, hlen, dc.1, dc.2, rfl, hv.symm, readP_writeP_same d dc.1 s⟩
  · exact absurd h (not_answers_ok_of_raise (c := .length) (by decide)
      (by rw [exec_rsDec, if_neg hcfgv, if_pos hlen]))

/-! ### The obligation -/

/-- Settles O57: the corrected word is the codeword, and the count the distance. -/
theorem rsDecResultBelongsToANearCodeword : Obligations.RsDecResultBelongsToANearCodeword := by
  intro d a s t v hinv hanswer
  obtain ⟨hcfgv, hlen, data, n, hdecode, rfl, hread⟩ := rsDec_of_answers_ok hanswer
  obtain ⟨hk, -⟩ := hinv.configured hcfgv
  obtain ⟨w, hw, hcode, rfl, hdistance⟩ := exists_codeword_of_decodeBlock hk (Nat.le_of_lt_succ s.k.isLt) hlen hdecode
  obtain ⟨-, hcount⟩ := decodeBlock_length hdecode
  have hcount : n ≤ (255 - s.k.val) / 2 := hcount
  have hn : (countData n).toNat = n := countData_toNat (by omega)
  exact ⟨w, hw, hcode, hread, hdistance.trans hn.symm, hn.trans_le hcount⟩

end Sys2Proof.Machine
end

section
/-! The staged decoder (spec/43_decoder.md R213). A command that succeeds hands its state to the next, and one that
raises ends the run. So the six commands go through when the stages do, each reading what the one before it wrote, and
what they leave is the corrected word and Z of its syndromes; RS.DEC succeeds when that Z is 1. -/

namespace Sys2Proof.Machine

/-! ### Running commands in sequence -/

theorem runOk_cons_of_next {i : Instr} {is : List Instr} {s t : State} (h : exec i s = .next t) :
    runOk (i :: is) s = if (t.respPort.getLastD 0#32).extractLsb' 24 8 = 0#8 then runOk is t else none := by
  rw [runOk, h]

/-- The cause is read off the last response. -/
theorem cause_of_respond (c : Cause) (v : Imm) (s : State) :
    ((respond c v s).respPort.getLastD 0#32).extractLsb' 24 8 = causeCode c := by
  obtain ⟨hcode, -⟩ := responseWord_fields c v
  rw [respond_respPort, List.getLastD_concat, hcode]

theorem runOk_cons_of_done {i : Instr} {is : List Instr} {s t : State} {v : Imm} (h : exec i s = done v t) :
    runOk (i :: is) s = runOk is (respond .ok v t) :=
  (runOk_cons_of_next (h.trans (done_eq v t))).trans (if_pos (cause_of_respond .ok v t))

theorem runOk_cons_of_raise {i : Instr} {is : List Instr} {s : State} {c : Cause} (hc : c ≠ .ok)
    (h : exec i s = raise c s) : runOk (i :: is) s = none := by
  rw [runOk_cons_of_next (h.trans (raise_eq c s)), cause_of_respond, if_neg]
  exact fun hzero => hc (causeCode_inj (d := .ok) hzero)

/-- A command that ends as its computation `x` does. -/
theorem runOk_cons_of_elim {α : Type} {i : Instr} {is : List Instr} {s : State} {c : Cause} {x : Option α}
    {v : α → Imm} {t : α → State} (hc : c ≠ .ok)
    (h : exec i s = x.elim (raise c s) fun y => done (v y) (t y)) :
    runOk (i :: is) s = x.bind fun y => runOk is (respond .ok (v y) (t y)) := by
  cases x with
  | none => exact runOk_cons_of_raise hc h
  | some y => exact runOk_cons_of_done h

/-! ### The commands of the decoder in a run -/

section
variable {d a b c : PReg} {is : List Instr} {s : State}

theorem runOk_rsSyn (hcfgv : s.cfgv = true) (hlen : (readP a s).length = 255) :
    runOk (.rsSyn d a :: is) s = runOk is (respond .ok (countData (bit (zOf (syndromes (readP a s) (255 - s.k.val)))))
      (setZ (zOf (syndromes (readP a s) (255 - s.k.val))) (writeP d (syndromes (readP a s) (255 - s.k.val)) s))) :=
  runOk_cons_of_done (by rw [exec_rsSyn, if_neg (by simp [hcfgv]), if_neg (not_not_intro hlen)])

theorem runOk_rsBm (hgood : goodVector (readP a s) = true) :
    runOk (.rsBm d a :: is) s = (bm (readP a s)).bind fun lam =>
      runOk is (respond .ok (countData (lam.length - 1)) (writeP d lam s)) :=
  runOk_cons_of_elim (c := .uncorr) (by decide) (by rw [exec_rsBm, if_neg (by simp [hgood])])

theorem runOk_rsChien (hne : (readP a s).length ≠ 0) :
    runOk (.rsChien d a :: is) s = (chien (readP a s)).bind fun pos =>
      runOk is (respond .ok (countData pos.length) (writeP d pos s)) :=
  runOk_cons_of_elim (c := .uncorr) (by decide) (by rw [exec_rsChien, if_neg hne])

theorem runOk_rsForney (hgood : goodVector (readP a s) = true) (hne : (readP b s).length ≠ 0)
    (hpos : ¬ hasBadPosition (readP c s) = true) :
    runOk (.rsForney d a b c :: is) s = (forney (readP a s) (readP b s) (readP c s)).bind fun mag =>
      runOk is (respond .ok 0#16 (writeP d mag s)) :=
  runOk_cons_of_elim (c := .uncorr) (by decide)
    (by rw [exec_rsForney, if_neg (by simp [hgood]), if_neg hne, if_neg hpos])

theorem runOk_rsFix (hlen : (readP a s).length = 255) (hlists : (readP b s).length = (readP c s).length)
    (hpos : ¬ hasBadPosition (readP b s) = true) :
    runOk (.rsFix d a b c :: is) s =
      runOk is (respond .ok 0#16 (writeP d (fix (readP a s) (readP b s) (readP c s)) s)) :=
  runOk_cons_of_done (by rw [exec_rsFix, if_neg (not_not_intro hlen), if_neg (not_not_intro hlists), if_neg hpos])

theorem runOk_rsDec (hcfgv : s.cfgv = true) (hlen : (readP a s).length = 255) :
    runOk (.rsDec d a :: is) s = (decodeBlock (readP a s) s.k.val).bind fun dc => runOk is (respond .ok (countData dc.2)
      (setNerr dc.2 (setZ (allZero (syndromes (readP a s) (255 - s.k.val))) (writeP d dc.1 s)))) :=
  runOk_cons_of_elim (c := .uncorr) (by decide)
    (by rw [exec_rsDec_setNerr_setZ, if_neg (by simp [hcfgv]), if_neg (not_not_intro hlen)])

end

/-! ### The staged commands, stage by stage -/

theorem not_hasBadPosition_of_chien {lam pos : Poly} (h : chien lam = some pos) : ¬ hasBadPosition pos = true := by
  have hroots : rootPositions lam = pos := by
    by_contra hne
    by_cases hlen : (rootPositions lam).length + 1 = lam.length
    · rw [chien_of_length hlen] at h
      exact hne (Option.some.inj h)
    · rw [chien_of_length_ne hlen] at h
      exact absurd h (by simp)
  rw [hasBadPosition_iff, ← hroots, mem_rootPositions]
  exact fun hbad => absurd hbad.1 (by decide)

/-- The correction and the re-verification of a state that holds the word, the positions and the magnitudes. -/
theorem runOk_fix_syn {s : State} (hcfgv : s.cfgv = true) (hlen : (readP 1 s).length = 255)
    (hlists : (readP 4 s).length = (readP 5 s).length) (hbad : ¬ hasBadPosition (readP 4 s) = true) :
    (runOk [.rsFix 6 1 4 5, .rsSyn 7 6] s).map (fun t => (t.z, readP 6 t)) =
      some (allZero (syndromes (fix (readP 1 s) (readP 4 s) (readP 5 s)) (255 - s.k.val)),
        fix (readP 1 s) (readP 4 s) (readP 5 s)) := by
  rw [runOk_rsFix hlen hlists hbad, runOk_rsSyn (by simpa using hcfgv) (by simpa using hlen)]
  simp [runOk, readP_writeP, zOf]

/-- What the staged commands leave: Z of the corrected word, and that word. -/
theorem runOk_stagedDecode {s : State} (hk : 1 ≤ s.k.val) (hcfgv : s.cfgv = true) (hlen : (readP 1 s).length = 255) :
    (runOk stagedDecode s).map (fun t => (t.z, readP 6 t)) =
      (stages (readP 1 s) (syndromes (readP 1 s) (255 - s.k.val))).map fun pw =>
        (allZero (syndromes pw.2 (255 - s.k.val)), pw.2) := by
  have hgood : goodVector (syndromes (readP 1 s) (255 - s.k.val)) = true := by
    rw [goodVector_iff, syndromes_length]
    omega
  rw [stagedDecode, runOk_rsSyn hcfgv hlen, runOk_rsBm (by simpa using hgood)]
  simp only [readP_respond, readP_setZ, readP_writeP_same, stages_eq]
  cases hlam : bm (syndromes (readP 1 s) (255 - s.k.val)) with
  | none => rfl
  | some lam =>
    obtain ⟨hlam1, -⟩ := bm_length hlam
    have hne : lam.length ≠ 0 := Nat.one_le_iff_ne_zero.mp hlam1
    rw [Option.bind_some, Option.bind_some, runOk_rsChien (by rwa [readP_respond, readP_writeP_same])]
    simp only [readP_respond, readP_writeP_same]
    cases hpos : chien lam with
    | none => rfl
    | some pos =>
      have hbad := not_hasBadPosition_of_chien hpos
      rw [Option.bind_some, Option.bind_some, runOk_rsForney (by simpa [readP_writeP] using hgood)
        (by simpa [readP_writeP] using hne) (by simpa [readP_writeP] using hbad)]
      simp only [readP_respond, readP_writeP, readP_setZ, reduceIte, Fin.reduceEq]
      cases hmag : forney (syndromes (readP 1 s) (255 - s.k.val)) lam pos with
      | none => rfl
      | some mag =>
        have hlists := forney_length hmag
        rw [Option.bind_some, runOk_fix_syn]
        · simp [readP_writeP]
        all_goals simp [readP_writeP, hcfgv, hlen, hlists, hbad]

theorem stagedDecode_iff {s : State} {data : Poly} (hk : 1 ≤ s.k.val) (hcfgv : s.cfgv = true)
    (hlen : (readP 1 s).length = 255) :
    (∃ t, runOk stagedDecode s = some t ∧ t.z = true ∧ (readP 6 t).take s.k.val = data) ↔
      ∃ n, decodeBlock (readP 1 s) s.k.val = some (data, n) := by
  have hrun := runOk_stagedDecode hk hcfgv hlen
  simp only [decodeBlock_eq_some_iff hk (Nat.le_of_lt_succ s.k.isLt)]
  constructor
  · rintro ⟨t, ht, hz, hdata⟩
    rw [ht, Option.map_some, eq_comm, Option.map_eq_some_iff] at hrun
    obtain ⟨⟨pos, w⟩, hstages, heq⟩ := hrun
    obtain ⟨hzero, rfl⟩ := Prod.mk.inj heq
    exact ⟨pos.length, pos, _, hstages, hzero.trans hz, hdata, rfl⟩
  · rintro ⟨n, pos, w, hstages, hzero, hdata, -⟩
    rw [hstages, Option.map_some, Option.map_eq_some_iff] at hrun
    obtain ⟨t, ht, heq⟩ := hrun
    obtain ⟨hz, hw⟩ := Prod.mk.inj heq
    exact ⟨t, ht, hz.trans hzero, by rw [hw, hdata]⟩

theorem runOk_rsDec_iff {d a : PReg} {s : State} {data : Poly} (hcfgv : s.cfgv = true)
    (hlen : (readP a s).length = 255) :
    (∃ t, runOk [.rsDec d a] s = some t ∧ readP d t = data) ↔
      ∃ n, decodeBlock (readP a s) s.k.val = some (data, n) := by
  rw [runOk_rsDec hcfgv hlen]
  cases decodeBlock (readP a s) s.k.val with
  | none => simp
  | some dc =>
    obtain ⟨data', n⟩ := dc
    simp [runOk]

/-! ### The obligation -/

/-- Settles O58: both succeed with the data exactly when the decoder does. -/
theorem stagedDecodeEqualsRsDec : Obligations.StagedDecodeEqualsRsDec := by
  intro s data hinv hcfgv hlen
  obtain ⟨hk, -⟩ := hinv.configured hcfgv
  exact (runOk_rsDec_iff hcfgv hlen).trans (stagedDecode_iff hk hcfgv hlen).symm

end Sys2Proof.Machine
end
